-- ==== Sys2Proof/Word.lean ====
section
/-!
DEFINITION. The words of the LCG step unit: 32-bit data and 36-bit commands.
Bit 0 is the least significant bit, and every port value is unsigned (R9).
-/

namespace Sys2Proof

/-- A 32-bit value: the register S, a seed, response data, the status word (R7, R9). -/
abbrev Word := BitVec 32

/-- A command word CMD[35:0] (R43). -/
abbrev CmdWord := BitVec 36

end Sys2Proof
end

