-- ==== Sys2Proof/Config.lean ====
section
/-!
DEFINITION. What is fixed for a unit: the constants of R7 and R22, the parameters R8 leaves open, and the free
value of S. A constant declared opaque has no body, so no proof can see its value.
-/

namespace Sys2Proof.Config

/-- The multiplier a = 16807 (R7). -/
def A : Nat := 16807

/-- The modulus m = 2^31 − 1 (R7). -/
def M : Nat := 2147483647

/-- q = m div a (R7). -/
def Q : Nat := 127773

/-- r = m mod a (R7). -/
def R : Nat := 2836

/-- The command-set version, hardwired in the status word (R2, R22). -/
def VERSION : BitVec 8 := 0x01#8

/-- One less than LAT. The spec leaves LAT open (R8, D6; log entry 5). -/
opaque latMinusOne : Nat

/-- The parameter LAT: cycles from a command's acceptance to its response being valid, at least 1 (R8). -/
def LAT : Nat := latMinusOne + 1

/-- One less than N_UNITS. The spec leaves N_UNITS open (R8, D24; log entry 6). -/
opaque unitsMinusOne : Nat

/-- The parameter N_UNITS: how many independent units a platform has, at least 1 (R8). -/
def N_UNITS : Nat := unitsMinusOne + 1

/-- FREE VALUE: what S holds after the n-th event that leaves it unspecified, a reset edge or a RELEASE
(R16, R28, R77, U6; log entry 4). DESIGN CHOICE: it is one sequence for every unit of a platform, so the draws of different
units are not independent (log entries 4 and 6). -/
opaque freeS : Nat → Word

end Sys2Proof.Config
end

