-- ==== Sys2Proof/Machine/IntegerCore.lean ====
section
/-!
DEFINITION. The step function of the integer core (R58), and the reference functions the spec compares it with:
FpRef (R68) and Carta's fold (93_implementation_defined.md G2). No command computes a reference function.
-/

namespace Sys2Proof.Machine

/-- `hi = s div Q`, unsigned (R58, R59). -/
def stepHi (s : Word) : Nat :=
  s.toNat / Config.Q

/-- `lo = s mod Q`, unsigned (R58, R59). -/
def stepLo (s : Word) : Nat :=
  s.toNat % Config.Q

/-- `test = A·lo − R·hi`, signed (R58, R60). -/
def stepTest (s : Word) : Int :=
  (Config.A : Int) * (stepLo s : Int) - (Config.R : Int) * (stepHi s : Int)

/-- `u32(v)` (R9): the 32-bit value of an integer in `[0, 2^32 − 1]`. `Laws.u32_toNat` says it loses nothing there,
and `Laws.lcgStep_eq` that `lcgStep` applies it nowhere else. -/
def u32 (v : Int) : Word :=
  BitVec.ofInt 32 v

/-- `Step(s)` (R58). The selection is strict: `test = 0` gives M (R61). -/
def lcgStep (s : Word) : Word :=
  if stepTest s > 0 then u32 (stepTest s) else u32 (stepTest s + (Config.M : Int))

/-- `FpRef(s) = (A·s) mod M` (R68): the value of the source's floating-point core, whose operations are exact in
binary64 (G1; log entry 19). -/
def fpRef (s : Nat) : Nat :=
  (Config.A * s) % Config.M

/-- Carta's division-free form of the step, in 32-bit unsigned arithmetic (G2; log entry 19). -/
def cartaFold (s : Word) : Word :=
  let lo := 16807#32 * (s &&& 0xFFFF#32)
  let hi := 16807#32 * (s >>> 16)
  let lo := lo + ((hi &&& 0x7FFF#32) <<< 16)
  let lo := lo + (hi >>> 15)
  if lo.toNat > 0x7FFFFFFF then lo - 0x7FFFFFFF#32 else lo

end Sys2Proof.Machine
end

