-- ==== Sys2Proof/Syntax.lean ====
section
/-!
DEFINITION. The commands of PMC31-CMD as syntax, the two fields of a raw command word, and the lines of
the assembler's source text.
-/

namespace Sys2Proof

/-- The four commands, one constructor per row of the opcode table (R46). -/
inductive Instr where
  /-- `LOAD seed`: create the generator (R72). -/
  | load (seed : Word)
  /-- `STEP`: advance the generator and return the new state (R75). -/
  | step
  /-- `RELEASE`: destroy the generator (R77). -/
  | release
  /-- `STATUS`: read the status word (R78). -/
  | status
  deriving DecidableEq, Repr

/-- Format C: the fields OP = CMD[35:32] and DATA = CMD[31:0] of any command word, legal or not (R43). -/
structure Command where
  op : BitVec 4
  data : Word
  deriving DecidableEq, Repr

/-- One line of assembler source (R55, R56). A value stands as the number written, before its range is checked. -/
inductive AsmLine where
  /-- A line with nothing but white space and a comment. -/
  | blank
  /-- `LOAD <value>`. -/
  | load (value : Nat)
  /-- `STEP`. -/
  | step
  /-- `RELEASE`. -/
  | release
  /-- `STATUS`. -/
  | status
  /-- The pseudo-instruction `RESEED <value>` (R56). -/
  | reseed (value : Nat)
  /-- `.word 0x<9 hex digits>`: that command word unchanged, whether it is a reserved encoding or not (log entry 12). -/
  | word (value : Nat)
  /-- `.rep <n>`. -/
  | rep (n : Nat)
  /-- `.endr`. -/
  | endr
  deriving DecidableEq, Repr

end Sys2Proof
end

