-- ==== Sys2Proof/Machine/State.lean ====
section
/-!
DEFINITION. The unit's state as plain data, the samples of its input ports, its responses, the reasons a step can
stop, and the state after reset (R28).
-/

namespace Sys2Proof.Machine

/-- The response status RST (R50). The code 0b11 is never produced, so it has no constructor. -/
inductive RspStatus where
  /-- `OK`: the command was performed as its rule says. -/
  | ok
  /-- `FAULT`: this command raised a fault, and the unit is now halted. -/
  | fault
  /-- `HALTED`: the unit was already halted, and the command was refused and changed nothing. -/
  | halted
  deriving DecidableEq, Repr

/-- A response `(RST, RDATA)` (R50). -/
structure Response where
  status : RspStatus
  data : Word
  deriving DecidableEq, Repr

/-- The contract violations the unit detects (R83). Each is recorded in FAULT and CAUSE and the unit goes on,
halted; none of them stops a step. -/
inductive Cause where
  | illegalCmd
  | stepNotLive
  | releaseNotLive
  | loadWhileLive
  deriving DecidableEq, Repr

/-- The input ports as sampled at one rising edge of `clk` (R52). A command port carries `none` where its value is
not one definite number (R110, U14; log entry 9). -/
structure PortsIn where
  rst : Bool
  cmdValid : Bool
  cmdOp : Option (BitVec 4)
  cmdData : Option Word
  rspReady : Bool
  deriving DecidableEq, Repr

/-- The output ports in one cycle (R52). `rspStatus` and `rspData` are `none` in a cycle without a valid
response, where the spec gives them no value (log entry 11). -/
structure PortsOut where
  cmdReady : Bool
  rspValid : Bool
  rspStatus : Option (BitVec 2)
  rspData : Option Word
  fault : Bool
  deriving DecidableEq, Repr

/-- What stops the machine: nothing does. Every contract violation of R83 has its effect described (R87), so a step
takes it and answers a next state (log entry 13). -/
inductive Fault where
  deriving DecidableEq, Repr

/-- Why a step has no meaning. -/
inductive Refusal where
  /-- Raised by an arm of `exec` whose instruction has no meaning yet; safe. -/
  | notModelled (mnemonic : String)
  /-- Raised by `edge` where the unit accepts a command while `cmd_op` or `cmd_data` is not one definite value: R112
  rules such a sample out and U14 says to refuse it (log entry 9); safe. -/
  | undefinedSample
  deriving DecidableEq, Repr

/-- The state of one unit (R13, R27), with the model's own fields for the host's side of the ports. -/
structure State where
  /-- The generator state S (R14). -/
  S : Word
  /-- LIVE: the unit holds a constructed generator (R19). -/
  LIVE : Bool
  /-- FAULT: a contract violation was detected; the unit is halted (R20). -/
  FAULT : Bool
  /-- CAUSE: the code of the fault that set FAULT (R21). -/
  CAUSE : BitVec 4
  /-- The pending response (R27). -/
  pending : Option Response
  /-- Edges still to come before the pending response is valid (R54). -/
  rspWait : Nat
  /-- `rst` was 1 at the previous rising edge (R53). -/
  rstPrev : Bool
  /-- MODEL'S OWN: what the host will drive at the coming edges (R12, R25; log entry 7). -/
  inputs : List PortsIn
  /-- MODEL'S OWN: the responses the host has taken in this run, oldest first (R111; log entry 8). -/
  taken : List Response
  /-- MODEL'S OWN: the number of the next free value of S (log entry 4). -/
  freeCount : Nat
  deriving DecidableEq, Repr

/-- The unit right after the last reset edge, nothing driven yet (R28, R99). The spec leaves S open there: 0 is the
model's choice (log entry 3). `rstPrev` is 1 because the previous edge was a reset edge (R100). -/
def State.reset : State :=
  { S := 0#32
    LIVE := false
    FAULT := false
    CAUSE := 0#4
    pending := none
    rspWait := 0
    rstPrev := true
    inputs := []
    taken := []
    freeCount := 0 }

end Sys2Proof.Machine
end

