-- ==== Sys2Proof/Machine/Flags.lean ====
section
/-!
DEFINITION. The status fields: cause codes (R83), the status word (R22), response codes (R50), and the host's reading
of a response and of a status word, which refuses what the unit never produces (U10).
-/

namespace Sys2Proof.Machine

/-- The code of a fault cause (R83). -/
def causeCode : Cause → BitVec 4
  | .illegalCmd => 1#4
  | .stepNotLive => 2#4
  | .releaseNotLive => 3#4
  | .loadWhileLive => 4#4

/-- `{16'b0, 8'h01, CAUSE[3:0], 2'b00, FAULT, LIVE}` (R22). -/
def statusWordOf (live fault : Bool) (cause : BitVec 4) : Word :=
  0#16 ++ Config.VERSION ++ cause ++ 0#2 ++ BitVec.ofBool fault ++ BitVec.ofBool live

/-- `StatusWord` of the unit (R22). -/
def State.statusWord (s : State) : Word :=
  statusWordOf s.LIVE s.FAULT s.CAUSE

/-- The bits of a response status on `rsp_status` (R50). -/
def statusBits : RspStatus → BitVec 2
  | .ok => 0b00#2
  | .fault => 0b01#2
  | .halted => 0b10#2

/-- The host's reading of `rsp_status` and `rsp_data`: the code 0b11 is refused (R50, U10). -/
def readResponse (rst : BitVec 2) (rdata : Word) : Option Response :=
  if rst = 0b00#2 then some { status := .ok, data := rdata }
  else if rst = 0b01#2 then some { status := .fault, data := rdata }
  else if rst = 0b10#2 then some { status := .halted, data := rdata }
  else none

/-- The host's reading of a status word as `(LIVE, FAULT, CAUSE)`: refused unless it is a word R22 and R24 allow
(U10). -/
def readStatusWord (w : Word) : Option (Bool × Bool × BitVec 4) :=
  let live := w.getLsbD 0
  let fault := w.getLsbD 1
  let cause := w.extractLsb' 4 4
  if w = statusWordOf live fault cause ∧ cause.toNat ≤ 4 ∧ (cause = 0#4 ↔ fault = false) then
    some (live, fault, cause)
  else none

end Sys2Proof.Machine
end

