-- ==== Sys2Proof/WellFormed.lean ====
section
/-!
DEFINITION. Which terms are well formed: raw command words (R47, R48), instructions, and assembler lines (R55).
-/

namespace Sys2Proof

/-- The opcode is one of the assigned values 0x1 to 0x4; 0x0 and 0x5 to 0xF are reserved (R46, R47). -/
def Command.opAssigned (c : Command) : Bool :=
  decide (1 ≤ c.op.toNat) && decide (c.op.toNat ≤ 4)

/-- DATA is free for LOAD (OP = 0x1) and must be 0 for every other command (R43, R48). -/
def Command.dataLegal (c : Command) : Bool :=
  c.op == 0x1#4 || c.data == 0#32

/-- A raw command is well formed when neither reservation is violated; every other word is ILLEGAL (R49). -/
def Command.wf (c : Command) : Bool :=
  c.opAssigned && c.dataLegal

/-- Every term of `Instr` is well formed: the one operand, LOAD's seed, is any 32-bit value (R45, R48), which is
exactly what its type holds, so no check is left to make. -/
def Instr.wf : Instr → Bool
  | .load _ => true
  | .step => true
  | .release => true
  | .status => true

/-- A source line is well formed when its value lies in the range R55 gives: a seed in `[0, 2^32 − 1]`, a word of
nine hex digits. DESIGN CHOICE: `.word` may hold any 36-bit word, a legal command's too, where R55 speaks only of a
reserved encoding (log entry 12). -/
def AsmLine.wf : AsmLine → Bool
  | .load v => decide (v < 2 ^ 32)
  | .reseed v => decide (v < 2 ^ 32)
  | .word v => decide (v < 2 ^ 36)
  | .blank => true
  | .step => true
  | .release => true
  | .status => true
  | .rep _ => true
  | .endr => true

end Sys2Proof
end

