-- ==== Sys2Proof/Decode.lean ====
section
/-!
DEFINITION. Decoding (R57), total on every 36-bit word and rejecting by name, and after it the encoder, written
from the same opcode map (R46).
-/

namespace Sys2Proof

/-- Why a word is ILLEGAL. -/
inductive Reject where
  /-- OP is 0x0 or one of 0x5 to 0xF (R47). -/
  | reservedOpcode (op : BitVec 4)
  /-- OP is 0x2, 0x3 or 0x4 and DATA is not 0 (R48). -/
  | reservedOperand (op : BitVec 4) (data : Word)
  deriving DecidableEq, Repr

/-- The result of decoding: a command or ILLEGAL (R57). -/
inductive Decoded where
  | command (i : Instr)
  | illegal (why : Reject)
  deriving DecidableEq, Repr

/-- The fields of a command word (R43). -/
def fieldsOf (w : CmdWord) : Command :=
  { op := w.extractLsb' 32 4, data := w.extractLsb' 0 32 }

/-- The command word of two fields, `CMD = {OP, DATA}` (R43, R52). -/
def wordOf (c : Command) : CmdWord :=
  c.op ++ c.data

/-- DATA must be 0 for the command `i` of opcode `op` (R48). -/
def withoutOperand (i : Instr) (op : BitVec 4) (data : Word) : Decoded :=
  if data = 0#32 then .command i else .illegal (.reservedOperand op data)

/-- R57's pseudocode on the two fields. -/
def decodeFields (c : Command) : Decoded :=
  if c.op = 0x1#4 then .command (.load c.data)
  else if c.op = 0x2#4 then withoutOperand .step c.op c.data
  else if c.op = 0x3#4 then withoutOperand .release c.op c.data
  else if c.op = 0x4#4 then withoutOperand .status c.op c.data
  else .illegal (.reservedOpcode c.op)

/-- `decode(CMD)` (R57). -/
def decode (w : CmdWord) : Decoded :=
  decodeFields (fieldsOf w)

/-- The instruction's opcode (R46). -/
def opcodeOf : Instr → BitVec 4
  | .load _ => 0x1#4
  | .step => 0x2#4
  | .release => 0x3#4
  | .status => 0x4#4

/-- The instruction's DATA field: LOAD's seed unchanged, 0 for every other command (R45, R48). -/
def operandOf : Instr → Word
  | .load seed => seed
  | .step => 0#32
  | .release => 0#32
  | .status => 0#32

/-- The command word of an instruction (R43, R46). -/
def encode (i : Instr) : CmdWord :=
  wordOf { op := opcodeOf i, data := operandOf i }

/-- A row's word as the opcode table numbers it, `nbits` wide; it is a command word when every bit above
CMD[35] is 0 (log entry 18). -/
def tableWord (nbits w : Nat) : Option CmdWord :=
  if w % 2 ^ nbits < 2 ^ 36 then some (BitVec.ofNat 36 (w % 2 ^ nbits)) else none

/-- The instruction the decoder reads from a word as the opcode table numbers its bits (log entry 18). -/
def decodeTableWord (nbits w : Nat) : Option Instr :=
  match tableWord nbits w with
  | none => none
  | some cmd =>
    match decode cmd with
    | .command i => some i
    | .illegal _ => none

end Sys2Proof
end

