-- ==== Sys2Proof/Machine/Operands.lean ====
section
/-!
DEFINITION. The one operand form of the command set, LOAD's seed (R45, R73), and the command word on the input
ports (R43, R52).
-/

namespace Sys2Proof.Machine

/-- The seed LOAD stores: 0 is coerced to 1 and every other value is stored unchanged, with no range check
(R73, R74). -/
def coerceSeed (seed : Word) : Word :=
  if seed = 0#32 then 1#32 else seed

/-- The command word on the ports, `CMD = {cmd_op, cmd_data}`, where both are definite (R43, R52, R112). -/
def sampledCommand (p : PortsIn) : Option CmdWord :=
  match p.cmdOp, p.cmdData with
  | some op, some data => some (wordOf { op := op, data := data })
  | _, _ => none

/-- An edge at which the host drives nothing but `rsp_ready` (R97; log entry 7). -/
def idlePorts : PortsIn :=
  { rst := false, cmdValid := false, cmdOp := none, cmdData := none, rspReady := true }

/-- An edge at which the host offers the command word `w`; no word where `w` is `none`. -/
def offerPorts (w : Option CmdWord) : PortsIn :=
  { rst := false
    cmdValid := true
    cmdOp := w.map (fun cmd => (fieldsOf cmd).op)
    cmdData := w.map (fun cmd => (fieldsOf cmd).data)
    rspReady := false }

end Sys2Proof.Machine
end

