-- ==== Sys2Proof/Machine/Ops.lean ====
section
/-!
DEFINITION. The named operations on the unit's state: responding, the fault action (R87), the halted check (R80),
reset (R99), and the handshake's view of the pending response (R53, R54).
-/

namespace Sys2Proof.Machine

/-- `respond(st, d)` (R10): the command's one response becomes the pending response (R27). -/
def State.respond (s : State) (status : RspStatus) (data : Word) : State :=
  { s with pending := some { status := status, data := data } }

/-- `S <- unspecified` (R77, R99): S takes the next free value (log entry 4). DESIGN CHOICE: R10 does not
say whether the draws of different units are independent; every unit draws from the one sequence `Config.freeS` by its own
`freeCount`, so two units with equal counts draw the same value (log entries 4 and 6). -/
def State.forgetS (s : State) : State :=
  { s with S := Config.freeS s.freeCount, freeCount := s.freeCount + 1 }

/-- Taking a fault, `raise Fault(c)` (R87): FAULT and CAUSE are written, the response is (FAULT, 0), and S and LIVE
are unchanged. Nothing is saved and control goes nowhere (R84, R88). -/
def State.raiseFault (s : State) (c : Cause) : State :=
  State.respond { s with FAULT := true, CAUSE := causeCode c } .fault 0#32

/-- The return from a fault: there is no such command; reset is the only way (R90). Reset (R99) clears LIVE, FAULT and
CAUSE, leaves S unspecified and discards the pending response. A new run begins, so nothing is taken in it yet
(R111; log entry 8). -/
def State.doReset (s : State) : State :=
  State.forgetS
    { s with
      LIVE := false
      FAULT := false
      CAUSE := 0#4
      pending := none
      rspWait := 0
      rstPrev := true
      taken := [] }

/-- The first check of R71: a halted unit answers (HALTED, 0) and changes no register (R80); a unit that is not halted
goes to `performed`. -/
def State.unlessHalted (s performed : State) : State :=
  if s.FAULT then s.respond .halted 0#32 else performed

/-- `cmd_ready`: no pending response, and `rst` was 0 at the previous edge (R53). -/
def State.cmdReady (s : State) : Bool :=
  s.pending.isNone && !s.rstPrev

/-- The response that is valid now: the pending response once its latency has passed (R54). -/
def State.validResponse (s : State) : Option Response :=
  if s.rspWait = 0 then s.pending else none

/-- The host takes the pending response: it leaves the unit (R54) and joins the run's observation (R111). -/
def State.takeResponse (s : State) : State :=
  { s with pending := none, rspWait := 0, taken := s.taken ++ s.pending.toList }

/-- An edge with `rst = 0` at which no command is accepted: the latency counts down, or a valid response is taken
where the host is ready for it, or nothing happens (R54, R97, R109). -/
def State.idleEdge (s : State) (rspReady : Bool) : State :=
  let s := { s with rstPrev := false }
  if s.rspWait = 0 then
    if rspReady then s.takeResponse else s
  else { s with rspWait := s.rspWait - 1 }

/-- The output ports in a cycle where the host drives `rst` (R29, R52–R54). While `rst = 1` no response is offered
(R100; log entry 10). -/
def State.portsOut (s : State) (rst : Bool) : PortsOut :=
  let rsp := if rst then none else s.validResponse
  { cmdReady := s.cmdReady
    rspValid := rsp.isSome
    rspStatus := rsp.map (fun r => statusBits r.status)
    rspData := rsp.map Response.data
    fault := s.FAULT }

/-- Apply `f` where a step answers a next state. -/
def onNext {σ φ ρ : Type} (o : Host.Outcome σ φ ρ) (f : σ → σ) : Host.Outcome σ φ ρ :=
  match o with
  | .next s => .next (f s)
  | .fault r => .fault r
  | .refused r => .refused r

end Sys2Proof.Machine
end

