-- ==== Sys2Proof/Machine/Commands.lean ====
section
/-!
DEFINITION. The meaning of each command and of an ILLEGAL word, as one atomic transition (R11): from a state to the
next state with the command's response pending.
-/

namespace Sys2Proof.Machine

/-- `LOAD seed` (R72, R73, R74). -/
def execLoad (seed : Word) (s : State) : Host.Outcome State Fault Refusal :=
  .next <| s.unlessHalted <|
    if s.LIVE then s.raiseFault .loadWhileLive
    else State.respond { s with S := coerceSeed seed, LIVE := true } .ok 0#32

/-- `STEP` (R75): the response carries the new S. -/
def execStep (s : State) : Host.Outcome State Fault Refusal :=
  .next <| s.unlessHalted <|
    if s.LIVE then State.respond { s with S := lcgStep s.S } .ok (lcgStep s.S)
    else s.raiseFault .stepNotLive

/-- `RELEASE` (R77): S becomes unspecified. -/
def execRelease (s : State) : Host.Outcome State Fault Refusal :=
  .next <| s.unlessHalted <|
    if s.LIVE then State.respond (State.forgetS { s with LIVE := false }) .ok 0#32
    else s.raiseFault .releaseNotLive

/-- `STATUS` (R78), served while halted too (R80). -/
def execStatus (s : State) : Host.Outcome State Fault Refusal :=
  .next (s.respond .ok s.statusWord)

/-- A word that decodes as ILLEGAL (R79), refused with HALTED while halted (R80). -/
def performIllegal (s : State) : Host.Outcome State Fault Refusal :=
  .next (s.unlessHalted (s.raiseFault .illegalCmd))

end Sys2Proof.Machine
end

