-- ==== Sys2Proof/Machine/Dispatch.lean ====
section
/-!
DEFINITION. One arm per command, each one direct call of its meaning.
-/

namespace Sys2Proof.Machine

def exec (i : Instr) (s : State) : Host.Outcome State Fault Refusal :=
  match i with
  | .load seed => Sys2Proof.Machine.execLoad seed s
  | .step => Sys2Proof.Machine.execStep s
  | .release => Sys2Proof.Machine.execRelease s
  | .status => Sys2Proof.Machine.execStatus s

end Sys2Proof.Machine
end

