-- ==== Sys2Proof/Machine/Edge.lean ====
section
/-!
DEFINITION. Performing a command word (R71), the unit's clock edge (R52–R54, R98–R100, R105, R109, R110), and a run of
commands without time (R11, R36, R111).
-/

namespace Sys2Proof.Machine

/-- `Perform(CMD)` (R71): the word is decoded and performed; the halted check is the meanings' first (R80). -/
def perform (w : CmdWord) (s : State) : Host.Outcome State Fault Refusal :=
  match decode w with
  | .command i => exec i s
  | .illegal _ => performIllegal s

/-- An edge that accepts the command on the ports (R53). Its effect happens at this edge (log entry 2), and its
response becomes valid after `lat − 1` further edges (R54). A sample that is no definite word is refused (U14). -/
def accept (lat : Nat) (p : PortsIn) (s : State) : Host.Outcome State Fault Refusal :=
  match sampledCommand p with
  | none => .refused .undefinedSample
  | some w => onNext (perform w s) (fun t => { t with rspWait := lat - 1 })

/-- One rising edge of `clk` with the input ports at `p`, in a unit of latency `lat` (R8, R52). `rst` dominates
(R110); else an offered command is accepted where `cmd_ready` is 1 (R53); else the response handshake moves (R54). -/
def edge (lat : Nat) (p : PortsIn) (s : State) : Host.Outcome State Fault Refusal :=
  if p.rst then .next s.doReset
  else if p.cmdValid && s.cmdReady then accept lat p s
  else .next (s.idleEdge p.rspReady)

/-- What the host drives at the coming edge: the head of its list, or nothing once the list is empty (log
entry 7). -/
def drivenPorts (s : State) : PortsIn :=
  s.inputs.headD idlePorts

/-- The state with the coming edge's sample used up. -/
def dropInput (s : State) : State :=
  { s with inputs := s.inputs.tail }

/-- The state with the word `w` offered at the coming edge and the unit ready for it (R53): a response still pending
has been taken, and the previous edge was no reset edge (log entry 17). -/
def offerNext (s : State) (w : Option CmdWord) : State :=
  let s := s.takeResponse
  { s with rstPrev := false, inputs := offerPorts w :: s.inputs }

/-- Successive edges with the samples `ps` (R52). -/
def clockRun (lat : Nat) : List PortsIn → State → Host.Outcome State Fault Refusal
  | [], s => .next s
  | p :: ps, s =>
    match edge lat p s with
    | .next t => clockRun lat ps t
    | .fault r => .fault r
    | .refused r => .refused r

/-- One command without time: it is performed and its response is taken (R11, R111). -/
def transact (w : CmdWord) (s : State) : Host.Outcome State Fault Refusal :=
  onNext (perform w s) State.takeResponse

/-- A finite sequence of accepted commands, each response taken before the next command (R36, R111). -/
def transactAll : List CmdWord → State → Host.Outcome State Fault Refusal
  | [], s => .next s
  | w :: ws, s =>
    match transact w s with
    | .next t => transactAll ws t
    | .fault r => .fault r
    | .refused r => .refused r

/-- The words the unit accepts at the edges `ps`, oldest first (R53). -/
def acceptedWords (lat : Nat) : List PortsIn → State → List CmdWord
  | [], _ => []
  | p :: ps, s =>
    let now := if !p.rst && p.cmdValid && s.cmdReady then (sampledCommand p).toList else []
    match edge lat p s with
    | .next t => now ++ acceptedWords lat ps t
    | .fault _ => now
    | .refused _ => now

end Sys2Proof.Machine
end

