-- ==== Sys2Proof/Machine/Step.lean ====
section
/-!
DEFINITION. The step of the core: one rising edge of `clk` with what the host drives at it, and the placing of one
instruction's word on the command port.
-/

namespace Sys2Proof.Machine

/-- One rising edge of `clk`, in a unit of latency LAT (log entry 1). -/
def step (s : State) : Host.Outcome State Fault Refusal :=
  edge Config.LAT (drivenPorts s) (dropInput s)

/-- `s` with a word of the opcode table offered on the command port at the next edge, so that the next step accepts
and performs it (log entry 17). -/
def State.withFetchWord (s : State) (nbits w : Nat) : State :=
  offerNext s (tableWord nbits w)

end Sys2Proof.Machine
end

