-- ==== Sys2Proof/Machine/Assembler.lean ====
section
/-!
DEFINITION. The assembler of R55 and R56: from source text to the sequence of command words. It belongs to the host's
side; the unit knows only the words. What R55 leaves open is log entry 12.
-/

namespace Sys2Proof.Machine

/-- Why the assembler rejects a text. R55 states only the rejection of a value out of range; the others, and which is
reported where several apply, are a DESIGN CHOICE (log entry 12). -/
inductive AsmError where
  /-- A line is none of the forms of R55. -/
  | badLine
  /-- A value lies outside its range. -/
  | valueOutOfRange
  /-- `.endr` without an open `.rep`. -/
  | endrWithoutRep
  /-- The text ends inside a `.rep`. -/
  | repWithoutEndr
  deriving DecidableEq, Repr

/-- White space within a line. -/
def isSpace (c : Char) : Bool :=
  c == ' ' || c == '\t' || c == '\r'

/-- The value of a digit in a base of at most 16; hex digits in either case. -/
def digitValue (base : Nat) (c : Char) : Option Nat :=
  let n := c.toNat
  let v :=
    if 48 ≤ n ∧ n ≤ 57 then n - 48
    else if 97 ≤ n ∧ n ≤ 102 then n - 87
    else if 65 ≤ n ∧ n ≤ 70 then n - 55
    else base
  if v < base then some v else none

/-- The number the digits `cs` extend `acc` to. -/
def digitsFrom (base : Nat) : List Char → Nat → Option Nat
  | [], acc => some acc
  | c :: cs, acc =>
    match digitValue base c with
    | some d => digitsFrom base cs (base * acc + d)
    | none => none

/-- One or more digits. -/
def digits (base : Nat) (cs : List Char) : Option Nat :=
  if cs.isEmpty then none else digitsFrom base cs 0

/-- An unsigned literal: hex `0x…`, binary `0b…` or decimal (R55). DESIGN CHOICE: leading zeros are taken in each form
(log entry 12). -/
def literal : List Char → Option Nat
  | '0' :: 'x' :: cs => digits 16 cs
  | '0' :: 'b' :: cs => digits 2 cs
  | cs => digits 10 cs

/-- The operand of `.word`: `0x` and exactly nine hex digits (R55). DESIGN CHOICE: R55 gives `.word` for a reserved
encoding and is silent on one that holds a legal command's word; any nine hex digits are taken (log entry 12). -/
def wordLiteral : List Char → Option Nat
  | '0' :: 'x' :: cs => if cs.length = 9 then digits 16 cs else none
  | _ => none

/-- The words of a line, split at white space; `cur` is the word being read, reversed. -/
def tokens : List Char → List Char → List (List Char)
  | [], cur => if cur.isEmpty then [] else [cur.reverse]
  | c :: cs, cur =>
    if isSpace c then (if cur.isEmpty then tokens cs [] else cur.reverse :: tokens cs [])
    else tokens cs (c :: cur)

/-- The lines of a text; `cur` is the line being read, reversed. -/
def textLines : List Char → List Char → List (List Char)
  | [], cur => [cur.reverse]
  | c :: cs, cur =>
    if c == '\n' then cur.reverse :: textLines cs [] else textLines cs (c :: cur)

/-- The comment from `;` to the end of the line is dropped (R55). -/
def withoutComment (line : List Char) : List Char :=
  line.takeWhile (fun c => c != ';')

/-- The line with these words; mnemonics are not case-sensitive (R55). DESIGN CHOICE: the count of `.rep`, whose form
R55 does not give, is any literal a value may be, decimal, hex or binary (log entry 12). -/
def parseTokens : List (List Char) → Option AsmLine
  | [] => some .blank
  | [m] =>
    let m := m.map Char.toUpper
    if m = ['S', 'T', 'E', 'P'] then some .step
    else if m = ['R', 'E', 'L', 'E', 'A', 'S', 'E'] then some .release
    else if m = ['S', 'T', 'A', 'T', 'U', 'S'] then some .status
    else if m = ['.', 'E', 'N', 'D', 'R'] then some .endr
    else none
  | [m, v] =>
    let m := m.map Char.toUpper
    if m = ['L', 'O', 'A', 'D'] then (literal v).map .load
    else if m = ['R', 'E', 'S', 'E', 'E', 'D'] then (literal v).map .reseed
    else if m = ['.', 'W', 'O', 'R', 'D'] then (wordLiteral v).map .word
    else if m = ['.', 'R', 'E', 'P'] then (literal v).map .rep
    else none
  | _ => none

/-- One line of source text. -/
def parseLine (line : List Char) : Option AsmLine :=
  parseTokens (tokens (withoutComment line) [])

/-- The words a well-formed line other than a directive emits (R55, R56). -/
def wordsOfLine : AsmLine → List CmdWord
  | .blank => []
  | .load v => [encode (.load (BitVec.ofNat 32 v))]
  | .step => [encode .step]
  | .release => [encode .release]
  | .status => [encode .status]
  | .reseed v => [encode .release, encode (.load (BitVec.ofNat 32 v))]
  | .word v => [BitVec.ofNat 36 v]
  | .rep _ => []
  | .endr => []

/-- `n` copies of a sequence of words (R55). -/
def copies : Nat → List CmdWord → List CmdWord
  | 0, _ => []
  | n + 1, ws => ws ++ copies n ws

/-- The words of the lines that follow. `out` is what the innermost open `.rep` (or the text) has emitted so far, and
`outer` holds, for each open `.rep`, its count and what had been emitted before it. -/
def expandLines : List AsmLine → List (Nat × List CmdWord) → List CmdWord → Except AsmError (List CmdWord)
  | [], [], out => .ok out
  | [], _ :: _, _ => .error .repWithoutEndr
  | line :: lines, outer, out =>
    if line.wf then
      match line, outer with
      | .rep n, _ => expandLines lines ((n, out) :: outer) []
      | .endr, (n, before) :: rest => expandLines lines rest (before ++ copies n out)
      | .endr, [] => .error .endrWithoutRep
      | other, _ => expandLines lines outer (out ++ wordsOfLine other)
    else .error .valueOutOfRange

/-- The command words of a program given as lines (R55). -/
def assembleLines (lines : List AsmLine) : Except AsmError (List CmdWord) :=
  expandLines lines [] []

/-- The lines of a text, if each is one of the forms of R55. -/
def parseLines : List (List Char) → Option (List AsmLine)
  | [] => some []
  | l :: ls =>
    match parseLine l, parseLines ls with
    | some line, some rest => some (line :: rest)
    | _, _ => none

/-- The command words of a program's text (R55). -/
def assembleText (text : List Char) : Except AsmError (List CmdWord) :=
  match parseLines (textLines text []) with
  | some lines => assembleLines lines
  | none => .error .badLine

end Sys2Proof.Machine
end

