-- ==== Sys2Proof/Machine/Platform.lean ====
section
/-!
DEFINITION. A platform of N_UNITS independent units (R8, R30, R95), and the platform's parameters BUS_BINDING and
FAULT_ROUTING (R8, R35, R91). Each unit has its own ports, hence its own host samples in its own state, and the units share
no state (log entry 6).
-/

namespace Sys2Proof.Machine

/-- The units of a platform, told apart by their position (R95). -/
structure Platform where
  units : List State
  deriving DecidableEq, Repr

/-- A platform of `n` units, every one right after reset (R95). -/
def platformOfSize (n : Nat) : Platform :=
  { units := List.replicate n State.reset }

/-- The platform of N_UNITS units right after reset (R8). -/
def platformReset : Platform :=
  platformOfSize Config.N_UNITS

/-- The platform after the unit at a position has had the outcome `o`: that unit has its next state and every other unit
its old one (R30); where the unit stops, so does the platform. -/
def afterUnit (P : Platform) (k : Nat) (o : Host.Outcome State Fault Refusal) : Host.Outcome Platform Fault Refusal :=
  match o with
  | .next t => .next { units := P.units.set k t }
  | .fault r => .fault r
  | .refused r => .refused r

/-- The unit at a position makes one step; no other unit's state is read or written (R30). -/
def stepUnit (P : Platform) (k : Fin P.units.length) : Host.Outcome Platform Fault Refusal :=
  afterUnit P k (step P.units[k])

/-- The parameter BUS_BINDING: how a platform maps the units' ports onto a bus (R8, R32, R35, R95). What a bus carries in a
cycle, its addresses, byte lanes and access control, is the platform's own, so requests and replies are of any types (log
entry 20). -/
structure BusBinding (Request Reply : Type) where
  /-- The input ports of the unit at a position, for what the bus carries. -/
  drive : Nat → Request → PortsIn
  /-- What the bus carries back for the output ports of the unit at a position. -/
  answer : Nat → PortsOut → Reply

/-- The parameter FAULT_ROUTING: whether, and to which interrupt line, the `fault` output of the unit at a position is
routed (R8, R91; log entry 20). -/
abbrev FaultRouting (Line : Type) := Nat → Option Line

/-- The unit at a position sees one edge with its ports driven through the bus (R8, R35). Nothing but the ports reaches the
unit, and no other unit is read or written (R30). -/
def busEdge {Request Reply : Type} (lat : Nat) (busBinding : BusBinding Request Reply) (r : Request) (P : Platform)
    (k : Fin P.units.length) : Host.Outcome Platform Fault Refusal :=
  afterUnit P k (edge lat (busBinding.drive k r) P.units[k])

/-- What the bus carries back in a cycle in which it carries `r`: the unit's output ports, seen through the binding. -/
def busReply {Request Reply : Type} (busBinding : BusBinding Request Reply) (r : Request) (P : Platform)
    (k : Fin P.units.length) : Reply :=
  busBinding.answer k (P.units[k].portsOut (busBinding.drive k r).rst)

/-- The interrupt line the unit at a position is routed to, if any, with the level of the unit's `fault` output on it
(R29, R91). -/
def routedFault {Line : Type} (faultRouting : FaultRouting Line) (P : Platform) (k : Fin P.units.length) :
    Option (Line × Bool) :=
  (faultRouting k).map fun line => (line, (P.units[k].portsOut false).fault)

end Sys2Proof.Machine
end

