-- ==== Sys2Proof/Safety.lean ====
section
/-!
DEFINITION. The terms claims are stated in: what a run's observation is (R111), the invariants of the unit (R15, R24,
R51, R53, R54), and when two states are the same but for an S nobody can observe (R16, R81).
-/

namespace Sys2Proof.Machine

/-- The observation of a run: its responses, the final LIVE, FAULT and CAUSE, and S if LIVE = 1 (R111). -/
structure Observation where
  responses : List Response
  live : Bool
  fault : Bool
  cause : BitVec 4
  generator : Option Word
  deriving DecidableEq, Repr

/-- The observation of a run that ends in `s` (R111). -/
def observation (s : State) : Observation :=
  { responses := s.taken
    live := s.LIVE
    fault := s.FAULT
    cause := s.CAUSE
    generator := if s.LIVE then some s.S else none }

/-- A faulted run: its observation holds a response FAULT or HALTED (R111). -/
abbrev Observation.Faulted (o : Observation) : Prop :=
  ∃ r ∈ o.responses, r.status ≠ .ok

/-- The responses of the current run: those taken and the pending one. -/
def runResponses (s : State) : List Response :=
  s.taken ++ s.pending.toList

/-- While LIVE = 1, S is never 0 (R15). -/
abbrev LiveNonzero (s : State) : Prop :=
  s.LIVE = true → s.S ≠ 0#32

/-- CAUSE takes only the codes 0 to 4, and is 0 exactly when FAULT is 0 (R24). -/
abbrev CauseLegal (s : State) : Prop :=
  s.CAUSE.toNat ≤ 4 ∧ (s.CAUSE = 0#4 ↔ s.FAULT = false)

/-- Every response of the run other than OK carries data 0 (R51). -/
abbrev ErrorDataZero (s : State) : Prop :=
  ∀ r ∈ runResponses s, r.status ≠ .ok → r.data = 0#32

/-- FAULT is 1 exactly when some response of the run has status FAULT, and a response HALTED needs FAULT = 1
(R50, R87, R111). That this holds of a pending response that is not valid yet is the model's choice (log entry 2). -/
abbrev FaultReported (s : State) : Prop :=
  (s.FAULT = true ↔ ∃ r ∈ runResponses s, r.status = .fault) ∧
    ∀ r ∈ runResponses s, r.status = .halted → s.FAULT = true

/-- The handshake's state is coherent in a unit of latency `lat`: no latency without a pending response, at most
`lat − 1` edges to wait (R54), and after a reset edge the values of R28 (R99). That nothing is taken then is the model's
choice (log entry 8). -/
abbrev HandshakeLegal (lat : Nat) (s : State) : Prop :=
  (s.pending = none → s.rspWait = 0) ∧ s.rspWait ≤ lat - 1 ∧
    (s.rstPrev = true →
      s.pending = none ∧ s.taken = [] ∧ s.LIVE = false ∧ s.FAULT = false ∧ s.CAUSE = 0#4)

/-- The invariant of a unit of latency `lat`. -/
abbrev UnitInvariant (lat : Nat) (s : State) : Prop :=
  LiveNonzero s ∧ CauseLegal s ∧ ErrorDataZero s ∧ FaultReported s ∧ HandshakeLegal lat s

/-- Two states that differ at most in an S held while LIVE = 0, and in the number of the next free value: nothing a
host can observe (R16). -/
abbrev SameButHiddenS (s t : State) : Prop :=
  observation s = observation t ∧ s.pending = t.pending ∧ s.rspWait = t.rspWait ∧ s.rstPrev = t.rstPrev ∧
    s.inputs = t.inputs

/-- Two outcomes that agree: the same stop, or next states that are the same but for a hidden S. -/
def SameOutcome : Host.Outcome State Fault Refusal → Host.Outcome State Fault Refusal → Prop
  | .next s, .next t => SameButHiddenS s t
  | .fault a, .fault b => a = b
  | .refused a, .refused b => a = b
  | .next _, .fault _ => False
  | .next _, .refused _ => False
  | .fault _, .next _ => False
  | .fault _, .refused _ => False
  | .refused _, .next _ => False
  | .refused _, .fault _ => False

/-- The registers of R13 are the same in both states. -/
abbrev SameRegisters (s t : State) : Prop :=
  s.S = t.S ∧ s.LIVE = t.LIVE ∧ s.FAULT = t.FAULT ∧ s.CAUSE = t.CAUSE

/-- What is outside the four registers and the pending response: no command changes it (R13, R34). The free-value
counter is left out: RELEASE advances it. -/
abbrev SameSurroundings (s t : State) : Prop :=
  s.rspWait = t.rspWait ∧ s.rstPrev = t.rstPrev ∧ s.inputs = t.inputs ∧ s.taken = t.taken

end Sys2Proof.Machine
end

