-- ==== Sys2Proof/Certificates/Slice0/Obligations.lean ====
section
/-!
DEFINITION. The statements about the model, each formalising what a numbered rule of spec/ says the unit does.
-/

open Sys2Proof Sys2Proof.Machine

/-! ### Encoding -/

/-- Decode and encode agree both ways: a word decodes to a command exactly when it is that command's word, so
no bit of an encoding is dropped and no second word means the same command (R43, R45, R46, R57). -/
def Obligations.DecodeIsInverseOfEncode : Prop :=
  ∀ (w : CmdWord) (i : Instr), decode w = .command i ↔ w = encode i

/-- R57: every word decodes to exactly one of LOAD d, STEP, RELEASE, STATUS and ILLEGAL, by the patterns. -/
def Obligations.DecodeFollowsPatterns : Prop :=
  ∀ w : CmdWord,
    (w.extractLsb' 32 4 = 0x1#4 → decode w = .command (.load (w.extractLsb' 0 32))) ∧
    (w = 0x200000000#36 → decode w = .command .step) ∧
    (w = 0x300000000#36 → decode w = .command .release) ∧
    (w = 0x400000000#36 → decode w = .command .status) ∧
    (w.extractLsb' 32 4 ≠ 0x1#4 → w ≠ 0x200000000#36 → w ≠ 0x300000000#36 → w ≠ 0x400000000#36 →
      ∃ why, decode w = .illegal why)

/-- A sanity check on words written out bit by bit from R43 and R57: one of each command, and reserved ones. -/
def Obligations.WrittenWordsDecode : Prop :=
  decode 0b0001_00000000000000000000000000000101#36 = .command (.load 5#32) ∧
  decode 0b0010_00000000000000000000000000000000#36 = .command .step ∧
  decode 0b0011_00000000000000000000000000000000#36 = .command .release ∧
  decode 0b0100_00000000000000000000000000000000#36 = .command .status ∧
  decode 0b0000_00000000000000000000000000000000#36 = .illegal (.reservedOpcode 0x0#4) ∧
  decode 0b0101_00000000000000000000000000000000#36 = .illegal (.reservedOpcode 0x5#4) ∧
  decode 0b0100_00000000000000000000000000000001#36 = .illegal (.reservedOperand 0x4#4 1#32)

/-! ### The integer core -/

/-- R58, R59: Step by unsigned quotient and remainder. For any `hi` and `lo` with `s = Q·hi + lo` and `lo < Q`, Step is
`A·lo − R·hi` where that is positive, and that plus M where it is not. -/
def Obligations.StepFollowsFactoring : Prop :=
  ∀ (s : Word) (hi lo : Nat), s.toNat = 127773 * hi + lo → lo < 127773 →
    (2836 * hi < 16807 * lo → (lcgStep s).toNat = 16807 * lo - 2836 * hi) ∧
    (16807 * lo ≤ 2836 * hi → (lcgStep s).toNat = 16807 * lo + 2147483647 - 2836 * hi)

/-- R60: the range of `test` over all 32-bit states, its bounds each reached at exactly one state, and that no
intermediate value leaves 32 bits. -/
def Obligations.IntermediatesFitThirtyTwoBits : Prop :=
  ∀ s : Word,
    (-95329304 ≤ stepTest s ∧ stepTest s ≤ 2147464004) ∧
    (stepTest s = -95329304 ↔ s = 4294961622#32) ∧
    (stepTest s = 2147464004 ↔ s = 127772#32) ∧
    (-2 ^ 31 ≤ stepTest s ∧ stepTest s ≤ 2 ^ 31 - 1) ∧
    (stepTest s ≤ 0 → 2052154343 ≤ stepTest s + Config.M ∧ stepTest s + Config.M ≤ 2147483647) ∧
    (Config.A * stepLo s ≤ 2147464004 ∧ Config.A * stepLo s < 2 ^ 31) ∧
    (Config.R * stepHi s ≤ 95329304 ∧ Config.R * stepHi s < 2 ^ 31)

/-- R61: `test = 0` exactly at 0, M and 2M, and Step returns M there, not 0. -/
def Obligations.ZeroTestReturnsModulus : Prop :=
  ∀ s : Word,
    (stepTest s = 0 ↔ s.toNat % 2147483647 = 0) ∧
    (stepTest s = 0 ↔ s = 0#32 ∨ s = 2147483647#32 ∨ s = 4294967294#32) ∧
    (stepTest s = 0 → lcgStep s = 2147483647#32)

/-- R62: the closed form of Step, `(A·s) mod M`, or M where that is 0, which is exactly where `s mod M = 0`. -/
def Obligations.StepClosedForm : Prop :=
  ∀ s : Word,
    ((16807 * s.toNat) % 2147483647 ≠ 0 → (lcgStep s).toNat = (16807 * s.toNat) % 2147483647) ∧
    ((16807 * s.toNat) % 2147483647 = 0 → lcgStep s = 2147483647#32) ∧
    ((16807 * s.toNat) % 2147483647 = 0 ↔ s.toNat % 2147483647 = 0)

/-- R63: the output range. -/
def Obligations.StepOutputRange : Prop :=
  ∀ s : Word,
    (s.toNat % 2147483647 ≠ 0 → 1 ≤ (lcgStep s).toNat ∧ (lcgStep s).toNat ≤ 2147483646) ∧
    (s.toNat % 2147483647 = 0 → lcgStep s = 2147483647#32) ∧
    lcgStep s ≠ 0#32

/-- R64: on `[1, M − 1]`, Step is a bijection with inverse multiplication by 1407677000, and one cycle of period
M − 1. -/
def Obligations.StepIsOneFullCycle : Prop :=
  lcgStep 1407677000#32 = 1#32 ∧
  (∀ s : Word, 1 ≤ s.toNat → s.toNat ≤ 2147483646 →
    (1 ≤ (lcgStep s).toNat ∧ (lcgStep s).toNat ≤ 2147483646) ∧
    1407677000 * (lcgStep s).toNat % 2147483647 = s.toNat ∧
    lcgStep (BitVec.ofNat 32 (1407677000 * s.toNat % 2147483647)) = s ∧
    (∀ k : Nat, lcgStep^[k] s = s ↔ 2147483646 ∣ k) ∧
    (∃ k < 2147483646, lcgStep^[k] 1#32 = s))

/-- R65: Step depends only on `s mod M`; seeds 1, M + 1 and 2M + 1 all give 16807 first. -/
def Obligations.StepDependsOnResidueOnly : Prop :=
  (∀ s : Word, lcgStep s = lcgStep (BitVec.ofNat 32 (s.toNat % 2147483647))) ∧
  (∀ s t : Word, s.toNat % 2147483647 = t.toNat % 2147483647 → lcgStep s = lcgStep t) ∧
  lcgStep 0#32 = 2147483647#32 ∧
  lcgStep 1#32 = 16807#32 ∧ lcgStep 0x80000000#32 = 16807#32 ∧ lcgStep 0xFFFFFFFF#32 = 16807#32

/-- R66: M and 2M give M forever, no state in `[1, M − 1]` ever reaches M or 2M, and a live unit holds M or 2M only
after a LOAD of it or from a live M or 2M. -/
def Obligations.ModulusIsFixedPoint : Prop :=
  (∀ k : Nat, lcgStep^[k] 2147483647#32 = 2147483647#32 ∧ lcgStep^[k + 1] 4294967294#32 = 2147483647#32) ∧
  (∀ (s : Word) (k : Nat), 1 ≤ s.toNat → s.toNat ≤ 2147483646 →
    lcgStep^[k] s ≠ 2147483647#32 ∧ lcgStep^[k] s ≠ 4294967294#32) ∧
  (∀ (i : Instr) (s t : State), LiveNonzero s → exec i s = .next t → t.LIVE = true →
    t.S = 2147483647#32 ∨ t.S = 4294967294#32 →
    i = .load t.S ∨ (s.LIVE = true ∧ (s.S = 2147483647#32 ∨ s.S = 4294967294#32)))

/-- R69: from every seed in `[1, M − 1]` the integer core and the floating-point reference agree after any number
of steps. -/
def Obligations.StepIteratesLikeFpRef : Prop :=
  ∀ (s : Word) (k : Nat), 1 ≤ s.toNat → s.toNat ≤ 2147483646 → (lcgStep^[k] s).toNat = fpRef^[k] s.toNat

/-- R68: FpRef and Step differ at 0, M and 2M, where FpRef is 0 and Step is M, and nowhere else. -/
def Obligations.FpRefDiffersAtMultiplesOfModulus : Prop :=
  ∀ s : Word,
    (fpRef s.toNat = (lcgStep s).toNat ↔ ¬(s = 0#32 ∨ s = 2147483647#32 ∨ s = 4294967294#32)) ∧
    (s = 0#32 ∨ s = 2147483647#32 ∨ s = 4294967294#32 → fpRef s.toNat = 0 ∧ lcgStep s = 2147483647#32)

/-- 93_implementation_defined.md G2, R70: Carta's fold in 32-bit arithmetic is a conforming datapath, equal to Step on
every state but 0, which is never stepped. -/
def Obligations.CartaFoldIsConforming : Prop :=
  cartaFold 0#32 = 0#32 ∧ ∀ s : Word, s ≠ 0#32 → cartaFold s = lcgStep s

/-- 95_test_vectors.md E1, R76: the source's reference checkpoint, the 10,000th output from seed 1. -/
def Obligations.TenThousandthOutput : Prop :=
  lcgStep^[10000] 1#32 = 1043618065#32

/-! ### The commands -/

/-- R73, R72, R74: a LOAD on a unit that is neither halted nor live completes: S is the seed, 1 for a seed of 0, with no
range check, LIVE is 1, the response is (OK, 0), and nothing else changes. -/
def Obligations.LoadCreatesGenerator : Prop :=
  ∀ (seed : Word) (s : State), s.FAULT = false → s.LIVE = false →
    exec (.load seed) s =
      .next { s with S := if seed = 0#32 then 1#32 else seed, LIVE := true, pending := some ⟨.ok, 0#32⟩ }

/-- R75: a STEP on a live unit that is not halted completes: S is Step(S), the response carries it, and nothing else
changes. -/
def Obligations.StepAdvancesGenerator : Prop :=
  ∀ s : State, s.FAULT = false → s.LIVE = true →
    exec .step s = .next { s with S := lcgStep s.S, pending := some ⟨.ok, lcgStep s.S⟩ }

/-- R77: a RELEASE on a live unit that is not halted completes: LIVE is 0, the response is (OK, 0), and nothing else
changes but S, which may hold any value (with the model's own free-value counter, log entry 4). -/
def Obligations.ReleaseDestroysGenerator : Prop :=
  ∀ s : State, s.FAULT = false → s.LIVE = true →
    ∃ (anyValue : Word) (count : Nat),
      exec .release s =
        .next { s with S := anyValue, LIVE := false, pending := some ⟨.ok, 0#32⟩, freeCount := count }

/-- R78, R80: STATUS completes in every state, halted or not: the response carries the status word of the state before,
and nothing else changes. -/
def Obligations.StatusReadsStatusWord : Prop :=
  ∀ s : State, exec .status s = .next { s with pending := some ⟨.ok, s.statusWord⟩ }

/-- R22, R23: the layout of the status word, in every state. -/
def Obligations.StatusWordLayout : Prop :=
  ∀ s : State,
    s.statusWord.getLsbD 0 = s.LIVE ∧
    s.statusWord.getLsbD 1 = s.FAULT ∧
    s.statusWord.extractLsb' 2 2 = 0#2 ∧
    s.statusWord.extractLsb' 4 4 = s.CAUSE ∧
    s.statusWord.extractLsb' 8 8 = 0x01#8 ∧
    s.statusWord.extractLsb' 16 16 = 0#16

/-- R83, R86, R87: the faults of a unit that is not halted. Each condition has its cause code and writes nothing but
FAULT and CAUSE, with response (FAULT, 0), and without any of the four conditions no fault is taken. -/
def Obligations.ViolationsFaultWithTheirCause : Prop :=
  ∀ (w : CmdWord) (s : State), s.FAULT = false →
    ((∃ why, decode w = .illegal why) →
      perform w s = .next { s with FAULT := true, CAUSE := 1#4, pending := some ⟨.fault, 0#32⟩ }) ∧
    (decode w = .command .step → s.LIVE = false →
      perform w s = .next { s with FAULT := true, CAUSE := 2#4, pending := some ⟨.fault, 0#32⟩ }) ∧
    (decode w = .command .release → s.LIVE = false →
      perform w s = .next { s with FAULT := true, CAUSE := 3#4, pending := some ⟨.fault, 0#32⟩ }) ∧
    (∀ seed, decode w = .command (.load seed) → s.LIVE = true →
      perform w s = .next { s with FAULT := true, CAUSE := 4#4, pending := some ⟨.fault, 0#32⟩ }) ∧
    (∀ t, perform w s = .next t → t.FAULT = true →
      (∃ why, decode w = .illegal why) ∨ (decode w = .command .step ∧ s.LIVE = false) ∨
        (decode w = .command .release ∧ s.LIVE = false) ∨ ∃ seed, decode w = .command (.load seed) ∧ s.LIVE = true)

/-- R79, R47, R48: which words are ILLEGAL, and what they do on a unit that is and is not halted. -/
def Obligations.ReservedWordsAreIllegal : Prop :=
  ∀ (w : CmdWord) (s : State),
    ((∃ why, decode w = .illegal why) ↔
      (w.extractLsb' 32 4 = 0x0#4 ∨ 0x5#4 ≤ w.extractLsb' 32 4) ∨
      ((w.extractLsb' 32 4 = 0x2#4 ∨ w.extractLsb' 32 4 = 0x3#4 ∨ w.extractLsb' 32 4 = 0x4#4) ∧
        w.extractLsb' 0 32 ≠ 0#32)) ∧
    ((∃ why, decode w = .illegal why) → s.FAULT = false →
      perform w s = .next { s with FAULT := true, CAUSE := 1#4, pending := some ⟨.fault, 0#32⟩ }) ∧
    ((∃ why, decode w = .illegal why) → s.FAULT = true →
      perform w s = .next { s with pending := some ⟨.halted, 0#32⟩ })

/-- R80, R90: while halted, a well-formed STATUS is served and every other word gets (HALTED, 0) and changes no
register; an edge without reset keeps all four registers; a reset edge clears FAULT and CAUSE. -/
def Obligations.HaltedUntilReset : Prop :=
  (∀ (w : CmdWord) (s : State), s.FAULT = true →
    (w = 0x400000000#36 → perform w s = .next { s with pending := some ⟨.ok, s.statusWord⟩ }) ∧
    (w ≠ 0x400000000#36 → perform w s = .next { s with pending := some ⟨.halted, 0#32⟩ })) ∧
  (∀ (lat : Nat) (p : PortsIn) (s t : State), s.FAULT = true → edge lat p s = .next t →
    (p.rst = false → SameRegisters t s) ∧ (p.rst = true → t.FAULT = false ∧ t.CAUSE = 0#4))

/-- R51: the response data by command and outcome. -/
def Obligations.ResponseDataByOutcome : Prop :=
  ∀ (w : CmdWord) (s t : State), perform w s = .next t →
    ∃ r, t.pending = some r ∧
      (r.status = .ok →
        (∃ seed, decode w = .command (.load seed) ∧ r.data = 0#32) ∨
        (decode w = .command .step ∧ r.data = t.S ∧ t.S = lcgStep s.S) ∨
        (decode w = .command .release ∧ r.data = 0#32) ∨
        (decode w = .command .status ∧ r.data = s.statusWord)) ∧
      (r.status = .fault → decode w ≠ .command .status ∧ r.data = 0#32) ∧
      (r.status = .halted → decode w ≠ .command .status ∧ r.data = 0#32)

/-- R13, R14, R19, R20, R21, R23: the frame of the four commands, whenever `exec` gives a next state. What is outside the
registers and the pending response is unchanged, and each register changes only by the commands, and in the way, its rule
names. The model's free-value counter moves only with a RELEASE that is performed (log entry 4). -/
def Obligations.CommandFrame : Prop :=
  ∀ (i : Instr) (s t : State), exec i s = .next t →
    SameSurroundings s t ∧
    (t.S ≠ s.S → s.FAULT = false ∧
      ((∃ seed, i = .load seed ∧ s.LIVE = false ∧ t.S = if seed = 0#32 then 1#32 else seed) ∨
        (i = .step ∧ s.LIVE = true ∧ t.S = lcgStep s.S) ∨ (i = .release ∧ s.LIVE = true ∧ t.LIVE = false))) ∧
    (t.LIVE ≠ s.LIVE → s.FAULT = false ∧
      ((∃ seed, i = .load seed ∧ t.LIVE = true) ∨ (i = .release ∧ t.LIVE = false))) ∧
    (t.FAULT ≠ s.FAULT → i ≠ .status ∧ t.FAULT = true ∧ t.S = s.S ∧ t.LIVE = s.LIVE) ∧
    (t.CAUSE ≠ s.CAUSE → s.FAULT = false ∧ t.FAULT = true) ∧
    (t.freeCount ≠ s.freeCount → i = .release ∧ s.FAULT = false ∧ s.LIVE = true)

/-- R15: while live S is never 0, every nonzero value is possible, and after a STEP that is not refused S lies in
`[1, M]`. -/
def Obligations.LiveGeneratorIsNeverZero : Prop :=
  (∀ (lat : Nat) (p : PortsIn) (s t : State), LiveNonzero s → edge lat p s = .next t → LiveNonzero t) ∧
  (∀ v : Word, v ≠ 0#32 →
    ∃ t, transact (encode (.load v)) State.reset = .next t ∧ t.LIVE = true ∧ t.S = v) ∧
  (∀ s t : State, s.FAULT = false → s.LIVE = true → exec .step s = .next t →
    1 ≤ t.S.toNat ∧ t.S.toNat ≤ 2147483647)

/-- R24: the legal status fields. Every edge keeps CAUSE among the codes 0 to 4 and 0 exactly when FAULT is 0, reset has
them, and every combination of LIVE and FAULT occurs after some command sequence from reset. -/
def Obligations.StatusFieldsStayLegal : Prop :=
  CauseLegal State.reset ∧
  (∀ (lat : Nat) (p : PortsIn) (s t : State), CauseLegal s → edge lat p s = .next t → CauseLegal t) ∧
  (∀ live fault : Bool, ∃ (ws : List CmdWord) (t : State),
    transactAll ws State.reset = .next t ∧ t.LIVE = live ∧ t.FAULT = fault)

/-- U10, R24: the host reads back what the unit reports, and refuses the status code and the status words the unit never
produces: a word that is read at all has the layout of R22 and the legal fields of R24. -/
def Obligations.HostReadsBackReports : Prop :=
  (∀ (st : RspStatus) (d : Word), readResponse (statusBits st) d = some ⟨st, d⟩) ∧
  (∀ d : Word, readResponse 0b11#2 d = none) ∧
  (∀ s : State, CauseLegal s → readStatusWord s.statusWord = some (s.LIVE, s.FAULT, s.CAUSE)) ∧
  (∀ (w : Word) (live fault : Bool) (cause : BitVec 4),
    readStatusWord w = some (live, fault, cause) →
      w = statusWordOf live fault cause ∧ cause.toNat ≤ 4 ∧ (cause = 0#4 ↔ fault = false))

/-- R29: the `fault` port is 1 exactly when FAULT is 1, whatever `rst` is driven, and once 1 it stays 1 over every edge
without reset and is 0 after a reset edge. -/
def Obligations.FaultPortIsLevelUntilReset : Prop :=
  (∀ (s : State) (rst : Bool), (s.portsOut rst).fault = true ↔ s.FAULT = true) ∧
  (∀ (lat : Nat) (p : PortsIn) (s t : State) (r r' : Bool), (s.portsOut r).fault = true → edge lat p s = .next t →
    ((t.portsOut r').fault = true ↔ p.rst = false))

/-! ### Reset -/

/-- R28, R99: an edge with rst = 1 in any state whatever, as before the first reset (R103), leaves the values of R28; so
does `State.reset`. Nothing is said of S. -/
def Obligations.ResetLeavesListedValues : Prop :=
  (∀ (lat : Nat) (p : PortsIn) (s : State), p.rst = true →
    ∃ t, edge lat p s = .next t ∧ t.LIVE = false ∧ t.FAULT = false ∧ t.CAUSE = 0#4 ∧ t.statusWord = 0x00000100#32 ∧
      t.pending = none ∧ ∀ rst, (t.portsOut rst).fault = false ∧ (t.portsOut rst).rspValid = false) ∧
  (State.reset.LIVE = false ∧ State.reset.FAULT = false ∧ State.reset.CAUSE = 0#4 ∧
    State.reset.statusWord = 0x00000100#32 ∧ State.reset.pending = none ∧
    ∀ rst, (State.reset.portsOut rst).fault = false ∧ (State.reset.portsOut rst).rspValid = false)

/-- R98: holding rst high longer repeats the reset with no further effect (S stays unspecified, R16). -/
def Obligations.HoldingResetHasNoFurtherEffect : Prop :=
  ∀ (lat : Nat) (p q : PortsIn) (s t u : State), p.rst = true → q.rst = true →
    edge lat p s = .next t → edge lat q t = .next u → SameButHiddenS t u

/-- R100: while rst = 1 no command is accepted and no response offered; in the first cycle after the last reset edge
cmd_ready is 0, and from the second it is 1 until a command is accepted. -/
def Obligations.ReadyFromSecondCycleAfterReset : Prop :=
  (∀ (lat : Nat) (p q : PortsIn) (s : State), p.rst = true → q.rst = true → edge lat p s = edge lat q s) ∧
  (∀ s : State, (s.portsOut true).rspValid = false) ∧
  (∀ (lat : Nat) (p q : PortsIn) (s t u : State), p.rst = true → edge lat p s = .next t → q.rst = false →
    edge lat q t = .next u → t.cmdReady = false ∧ u.cmdReady = true) ∧
  (∀ (lat : Nat) (p : PortsIn) (s t : State), s.cmdReady = true → p.rst = false → p.cmdValid = false →
    edge lat p s = .next t → t.cmdReady = true)

/-! ### The handshakes -/

/-- R53: cmd_ready is 1 exactly when no response is pending and rst was 0 at the previous edge; a command on the ports is
accepted exactly at an edge with rst = 0, cmd_valid = 1 and cmd_ready = 1, and performed; at every other edge, and
whenever cmd_valid = 0, cmd_op and cmd_data are ignored. That the performed word's registers stand right after the accepting
edge, and not only by the time its response is valid, is the model's choice (log entry 2). -/
def Obligations.CommandHandshake : Prop :=
  ∀ (lat : Nat) (p : PortsIn) (s : State),
    (∀ t, edge lat p s = .next t → (t.cmdReady = true ↔ t.pending = none ∧ p.rst = false)) ∧
    (∀ w, p.rst = false → p.cmdValid = true → s.cmdReady = true → sampledCommand p = some w →
      ∃ t, perform w s = .next t ∧ edge lat p s = .next { t with rspWait := lat - 1 }) ∧
    (∀ op data, ¬(p.rst = false ∧ p.cmdValid = true ∧ s.cmdReady = true) →
      edge lat { p with cmdOp := op, cmdData := data } s = edge lat p s)

/-- A step runs the decoded instruction: where the host drives a definite legal word and the unit is ready, the step is
`exec` of the decoded instruction, after using up the sample and with the latency of its response set (R53, R54,
R71). That exec's effect stands at this edge, LAT − 1 edges before its response is valid, is the model's choice (log
entry 2). -/
def Obligations.StepRunsDecodedInstruction : Prop :=
  ∀ (s : State) (p : PortsIn) (rest : List PortsIn) (w : CmdWord) (i : Instr),
    s.inputs = p :: rest → p.rst = false → p.cmdValid = true → s.pending = none → s.rstPrev = false →
    sampledCommand p = some w → decode w = .command i →
    ∃ t, exec i { s with inputs := rest } = .next t ∧ step s = .next { t with rspWait := Config.LAT - 1 }

/-- The placed word runs: after `withFetchWord` the very next step is `exec` of the instruction the decoder reads from
the word, from the state in which a pending response has been taken (log entry 17). That the state right after that step
shows exec's registers, with LAT − 1 edges still to wait, is the model's choice (log entry 2). -/
def Obligations.PlacedWordRuns : Prop :=
  ∀ (s : State) (nbits w : Nat) (i : Instr), decodeTableWord nbits w = some i →
    ∃ t, exec i { s with pending := none, rspWait := 0, rstPrev := false, taken := s.taken ++ s.pending.toList } = .next t ∧
      step (s.withFetchWord nbits w) = .next { t with rspWait := Config.LAT - 1 }

/-- R54, R108: the response to a command accepted at an edge is not valid before `lat − 1` further edges and is valid
after them, whatever the host drives short of reset. The registers do not move in between: that is the model's choice of the
accepting edge for a command's effect (log entry 2), which neither rule says. -/
def Obligations.ResponseLatency : Prop :=
  ∀ (lat : Nat) (p : PortsIn) (s t : State) (ps : List PortsIn),
    1 ≤ lat → p.rst = false → p.cmdValid = true → s.cmdReady = true → edge lat p s = .next t →
    (∀ q ∈ ps, q.rst = false) → ps.length < lat →
    ∃ u, clockRun lat ps t = .next u ∧ SameRegisters u t ∧ u.pending = t.pending ∧ u.pending.isSome = true ∧
      u.taken = t.taken ∧ u.validResponse = if ps.length = lat - 1 then t.pending else none

/-- R54: a valid response is taken exactly at an edge with rsp_ready = 1 (and rst = 0), once and unchanged, after which
nothing is pending; a response that is not valid is not taken. -/
def Obligations.ValidResponseTakenOnce : Prop :=
  ∀ (lat : Nat) (p : PortsIn) (s t : State), p.rst = false → edge lat p s = .next t →
    (∀ r, s.validResponse = some r → p.rspReady = true →
      t.taken = s.taken ++ [r] ∧ t.pending = none ∧ (t.portsOut false).rspValid = false ∧ SameRegisters t s) ∧
    (∀ r, s.validResponse = some r → p.rspReady = false →
      t.taken = s.taken ∧ t.validResponse = some r ∧ SameRegisters t s) ∧
    (s.validResponse = none → t.taken = s.taken)

/-- R109: while the host holds rsp_ready = 0, for any number of edges, a valid response stays valid and steady, no
command is accepted, and nothing is lost. -/
def Obligations.BackPressureLosesNothing : Prop :=
  ∀ (lat : Nat) (ps : List PortsIn) (s : State) (r : Response),
    (∀ q ∈ ps, q.rst = false ∧ q.rspReady = false) → s.validResponse = some r →
    ∃ t, clockRun lat ps s = .next t ∧ t.validResponse = some r ∧ SameRegisters t s ∧ t.taken = s.taken ∧
      t.cmdReady = false ∧ acceptedWords lat ps s = []

/-- R105: from the edge that accepts a command until the edge at which its response is taken, cmd_ready is 0. -/
def Obligations.OneCommandOutstanding : Prop :=
  (∀ (lat : Nat) (p : PortsIn) (s t : State), p.rst = false → p.cmdValid = true → s.cmdReady = true →
    edge lat p s = .next t → t.pending.isSome = true ∧ t.cmdReady = false) ∧
  (∀ (lat : Nat) (p : PortsIn) (s t : State) (r : Response), s.pending = some r → p.rst = false →
    edge lat p s = .next t →
    (t.pending = some r ∧ t.cmdReady = false) ∨
      (s.validResponse = some r ∧ p.rspReady = true ∧ t.taken = s.taken ++ [r] ∧ t.cmdReady = true))

/-- R108: with rsp_ready = 1 throughout, cmd_ready is 0 in the `lat` cycles after an accepting edge and 1 again after
`lat` further edges, so the minimum spacing of two accepted commands is `lat + 1`. -/
def Obligations.MinimumCommandSpacing : Prop :=
  ∀ (lat : Nat) (p : PortsIn) (s t : State) (ps : List PortsIn),
    1 ≤ lat → p.rst = false → p.cmdValid = true → s.cmdReady = true → edge lat p s = .next t →
    (∀ q ∈ ps, q.rst = false ∧ q.rspReady = true) → ps.length ≤ lat →
    ∃ u, clockRun lat ps t = .next u ∧ (u.cmdReady = true ↔ ps.length = lat)

/-- U14, R112: the one way a step stops is an accepted sample that is no definite word. -/
def Obligations.StepStopsOnlyOnIndefiniteSample : Prop :=
  ∀ (s : State) (r : Refusal),
    step s = .refused r ↔
      r = .undefinedSample ∧ (drivenPorts s).rst = false ∧ (drivenPorts s).cmdValid = true ∧ s.pending = none ∧
        s.rstPrev = false ∧ sampledCommand (drivenPorts s) = none

/-! ### Runs and the whole machine -/

/-- The invariant holds right after reset, whatever the latency. Its conjunct that nothing is taken then is the model's choice
(log entry 8). -/
def Obligations.InvariantHoldsAtReset : Prop :=
  ∀ lat : Nat, UnitInvariant lat State.reset

/-- Every step keeps the invariant: S nonzero while live (R15), legal status fields (R24), responses other than OK carry
0 (R51), FAULT is 1 exactly when the run has a FAULT response, and a coherent handshake (R53, R54, R99). Two parts are the
model's choices: that FAULT is 1 already while the FAULT response is pending and not valid yet (log entry 2; R87 says only by
the time it is valid), and that nothing is taken after a reset edge (log entry 8). -/
def Obligations.StepKeepsInvariant : Prop :=
  ∀ s t : State, UnitInvariant Config.LAT s → step s = .next t → UnitInvariant Config.LAT t

/-- R16, R81: an S held while LIVE = 0 cannot be observed. From two states that differ only there (and in the number of
the next free value), a step gives the same stop or again two such states. -/
def Obligations.HiddenGeneratorNeverShows : Prop :=
  ∀ s t : State, SameButHiddenS s t → SameOutcome (step s) (step t)

/-- R81: two units given the same command sequence give identical responses and registers, for every value of the
unspecified S. -/
def Obligations.EqualCommandsEqualResponses : Prop :=
  ∀ (ws : List CmdWord) (s t : State), SameButHiddenS s t →
    ∃ s' t', transactAll ws s = .next s' ∧ transactAll ws t = .next t' ∧ observation s' = observation t'

/-- R111: in a run from reset, the observation holds a FAULT or HALTED response exactly when the run ends with
FAULT = 1. -/
def Obligations.FaultedRunEndsHalted : Prop :=
  ∀ (ws : List CmdWord) (t : State), transactAll ws State.reset = .next t →
    t.taken.length = ws.length ∧ ((observation t).Faulted ↔ t.FAULT = true)

/-- R36, R37, R108: the clocked unit refines the unit without time. Whatever the latency and however the host offers
and stalls, the accepted words performed one after another give the same registers and the same responses in the same
order. Where the run ends in the middle of a wait, that the registers already agree is the model's choice (log entry 2). -/
def Obligations.ClockedUnitRefinesTransactions : Prop :=
  ∀ (lat : Nat) (ps : List PortsIn) (s t : State), s.pending = none → s.rspWait = 0 →
    (∀ q ∈ ps, q.rst = false) → clockRun lat ps s = .next t →
    ∃ u, transactAll (acceptedWords lat ps s) s = .next u ∧ SameRegisters u t ∧ u.taken = runResponses t

/-- R76: after LOAD seed, among commands that are STEP or STATUS only, the response to each STEP is Step iterated as many
times as there have been STEPs, from the coerced seed. -/
def Obligations.SequenceAfterLoad : Prop :=
  ∀ (seed : Word) (is : List Instr) (s : State), s.FAULT = false → s.LIVE = false →
    (∀ i ∈ is, i = .step ∨ i = .status) →
    ∃ t, transactAll (encode (.load seed) :: is.map encode) s = .next t ∧
      ∀ n, is[n]? = some .step →
        t.taken[s.taken.length + 1 + n]? =
          some ⟨.ok, lcgStep^[(is.take (n + 1)).count .step] (if seed = 0#32 then 1#32 else seed)⟩

/-- R30: units share nothing. A step of one unit is its own step alone and leaves every other unit as it was. -/
def Obligations.UnitsAreIndependent : Prop :=
  ∀ (P P' : Platform) (k : Fin P.units.length), stepUnit P k = .next P' →
    P'.units.length = P.units.length ∧
    (∃ t, step P.units[k] = .next t ∧ P'.units[k.val]? = some t) ∧
    (∀ j : Nat, j ≠ k.val → P'.units[j]? = P.units[j]?)

/-- R8, R29, R91: the parameters BUS_BINDING and FAULT_ROUTING, whatever they are. A bus reaches a unit through its ports
alone: a bus edge is the unit's edge at the ports the binding drives, every other unit stays as it was, and two bindings
that drive the same ports do the same. A routed line carries the level of the unit's FAULT register. The form of the two
parameters is the model's choice (log entry 20). -/
def Obligations.PlatformParametersActThroughPorts : Prop :=
  (∀ (Request Reply : Type) (bus : BusBinding Request Reply) (lat : Nat) (r : Request) (P P' : Platform)
      (k : Fin P.units.length), busEdge lat bus r P k = .next P' →
    P'.units.length = P.units.length ∧
    (∃ t, edge lat (bus.drive k r) P.units[k] = .next t ∧ P'.units[k.val]? = some t) ∧
    (∀ j : Nat, j ≠ k.val → P'.units[j]? = P.units[j]?)) ∧
  (∀ (Request Request' Reply Reply' : Type) (bus : BusBinding Request Reply) (bus' : BusBinding Request' Reply') (lat : Nat)
      (r : Request) (r' : Request') (P : Platform) (k : Fin P.units.length), bus.drive k r = bus'.drive k r' →
    busEdge lat bus r P k = busEdge lat bus' r' P k) ∧
  (∀ (Line : Type) (routing : FaultRouting Line) (P : Platform) (k : Fin P.units.length) (line : Line) (level : Bool),
    routedFault routing P k = some (line, level) ↔ routing k = some line ∧ level = P.units[k].FAULT)

/-- R55, R56: what the assembler emits. A value out of range is rejected, an emitted LOAD decodes to its seed, RESEED is
RELEASE then LOAD, `.word` emits its word unchanged, and `.rep n` repeats what its body emits `n` times. That `.word` also takes a legal
command's word, where R55 gives it for a reserved encoding, and that `.rep` nests are the model's choices (log entry 12). -/
def Obligations.AssemblerEmits : Prop :=
  (∀ v : Nat, v < 2 ^ 32 →
    (∃ w, assembleLines [.load v] = .ok [w] ∧ decode w = .command (.load (BitVec.ofNat 32 v))) ∧
    (∃ w w', assembleLines [.reseed v] = .ok [w, w'] ∧ decode w = .command .release ∧
      decode w' = .command (.load (BitVec.ofNat 32 v)))) ∧
  (∀ v : Nat, 2 ^ 32 ≤ v →
    assembleLines [.load v] = .error .valueOutOfRange ∧ assembleLines [.reseed v] = .error .valueOutOfRange) ∧
  (∀ w : CmdWord, assembleLines [.word w.toNat] = .ok [w]) ∧
  (∀ (n : Nat) (body : List AsmLine) (ws : List CmdWord), assembleLines body = .ok ws →
    assembleLines ([.rep n] ++ body ++ [.endr]) = .ok (copies n ws))
end

