-- ==== Sys2Proof/Laws/Decode.lean ====
section
/-!
SUPPORT. The two fields of a command word (R43) and the range of the legal opcodes (R46).
-/

namespace Sys2Proof.Laws

open Sys2Proof

@[simp] theorem fieldsOf_wordOf (c : Command) : fieldsOf (wordOf c) = c := by
  have h : (wordOf c).extractLsb' 32 4 = c.op := by
    rw [wordOf]
    exact BitVec.extractLsb'_append_eq_left
  have h' : (wordOf c).extractLsb' 0 32 = c.data := by
    rw [wordOf]
    exact BitVec.extractLsb'_append_eq_right
  simp [fieldsOf, h, h']

@[simp] theorem wordOf_fieldsOf (w : CmdWord) : wordOf (fieldsOf w) = w :=
  (BitVec.extractLsb'_append_extractLsb'_eq_extractLsb' (by omega)).trans (by simp)

theorem opcodeOf_range (i : Instr) : 1 ≤ (opcodeOf i).toNat ∧ (opcodeOf i).toNat ≤ 4 := by
  cases i <;> simp [opcodeOf]

end Sys2Proof.Laws
end

