-- ==== Sys2Proof/Laws/IntegerCore.lean ====
section
/-!
SUPPORT. The 32-bit narrowing of R9 and the value of Step as an integer (R58).
-/

namespace Sys2Proof.Laws

open Sys2Proof Sys2Proof.Machine

/-- `u32` loses nothing in the range R9 asserts. -/
theorem u32_toNat {v : Int} (h0 : 0 ≤ v) (h1 : v < 2 ^ 32) : ((u32 v).toNat : Int) = v := by
  simp only [u32, BitVec.toNat_ofInt]
  omega

/-- The state in terms of its quotient and remainder (R59). -/
theorem stepHi_stepLo (s : Word) :
    s.toNat = 127773 * stepHi s + stepLo s ∧ stepLo s ≤ 127772 ∧ stepHi s ≤ 33614 := by
  have := s.isLt
  simp only [stepHi, stepLo, Config.Q]
  omega

/-- `test` with the constants written out. -/
theorem stepTest_eq (s : Word) : stepTest s = 16807 * (stepLo s : Int) - 2836 * (stepHi s : Int) := rfl

/-- The value of Step as an integer: `u32` is applied inside its range only, so nothing is cut off. -/
theorem lcgStep_eq (s : Word) :
    ((lcgStep s).toNat : Int) = if stepTest s > 0 then stepTest s else stepTest s + 2147483647 := by
  obtain ⟨-, hl, hh⟩ := stepHi_stepLo s
  have ht := stepTest_eq s
  unfold lcgStep
  split
  · exact u32_toNat (by omega) (by omega)
  · exact u32_toNat (by simp only [Config.M]; omega) (by simp only [Config.M]; omega)

end Sys2Proof.Laws
end

