-- ==== Sys2Proof/Laws/State.lean ====
section
/-!
SUPPORT. One lemma per field for each named update of the state, and the fields of the state after reset.
-/

namespace Sys2Proof.Laws

open Sys2Proof Sys2Proof.Machine

@[simp] theorem respond_S (s : State) (st : RspStatus) (d : Word) : (s.respond st d).S = s.S := rfl
@[simp] theorem respond_LIVE (s : State) (st : RspStatus) (d : Word) : (s.respond st d).LIVE = s.LIVE := rfl
@[simp] theorem respond_FAULT (s : State) (st : RspStatus) (d : Word) : (s.respond st d).FAULT = s.FAULT := rfl
@[simp] theorem respond_CAUSE (s : State) (st : RspStatus) (d : Word) : (s.respond st d).CAUSE = s.CAUSE := rfl
@[simp] theorem respond_pending (s : State) (st : RspStatus) (d : Word) : (s.respond st d).pending = some { status := st, data := d } := rfl
@[simp] theorem respond_rspWait (s : State) (st : RspStatus) (d : Word) : (s.respond st d).rspWait = s.rspWait := rfl
@[simp] theorem respond_rstPrev (s : State) (st : RspStatus) (d : Word) : (s.respond st d).rstPrev = s.rstPrev := rfl
@[simp] theorem respond_inputs (s : State) (st : RspStatus) (d : Word) : (s.respond st d).inputs = s.inputs := rfl
@[simp] theorem respond_taken (s : State) (st : RspStatus) (d : Word) : (s.respond st d).taken = s.taken := rfl
@[simp] theorem respond_freeCount (s : State) (st : RspStatus) (d : Word) : (s.respond st d).freeCount = s.freeCount := rfl

@[simp] theorem forgetS_S (s : State) : (s.forgetS).S = Config.freeS s.freeCount := rfl
@[simp] theorem forgetS_LIVE (s : State) : (s.forgetS).LIVE = s.LIVE := rfl
@[simp] theorem forgetS_FAULT (s : State) : (s.forgetS).FAULT = s.FAULT := rfl
@[simp] theorem forgetS_CAUSE (s : State) : (s.forgetS).CAUSE = s.CAUSE := rfl
@[simp] theorem forgetS_pending (s : State) : (s.forgetS).pending = s.pending := rfl
@[simp] theorem forgetS_rspWait (s : State) : (s.forgetS).rspWait = s.rspWait := rfl
@[simp] theorem forgetS_rstPrev (s : State) : (s.forgetS).rstPrev = s.rstPrev := rfl
@[simp] theorem forgetS_inputs (s : State) : (s.forgetS).inputs = s.inputs := rfl
@[simp] theorem forgetS_taken (s : State) : (s.forgetS).taken = s.taken := rfl
@[simp] theorem forgetS_freeCount (s : State) : (s.forgetS).freeCount = s.freeCount + 1 := rfl

@[simp] theorem raiseFault_S (s : State) (c : Cause) : (s.raiseFault c).S = s.S := rfl
@[simp] theorem raiseFault_LIVE (s : State) (c : Cause) : (s.raiseFault c).LIVE = s.LIVE := rfl
@[simp] theorem raiseFault_FAULT (s : State) (c : Cause) : (s.raiseFault c).FAULT = true := rfl
@[simp] theorem raiseFault_CAUSE (s : State) (c : Cause) : (s.raiseFault c).CAUSE = causeCode c := rfl
@[simp] theorem raiseFault_pending (s : State) (c : Cause) : (s.raiseFault c).pending = some { status := .fault, data := 0#32 } := rfl
@[simp] theorem raiseFault_rspWait (s : State) (c : Cause) : (s.raiseFault c).rspWait = s.rspWait := rfl
@[simp] theorem raiseFault_rstPrev (s : State) (c : Cause) : (s.raiseFault c).rstPrev = s.rstPrev := rfl
@[simp] theorem raiseFault_inputs (s : State) (c : Cause) : (s.raiseFault c).inputs = s.inputs := rfl
@[simp] theorem raiseFault_taken (s : State) (c : Cause) : (s.raiseFault c).taken = s.taken := rfl
@[simp] theorem raiseFault_freeCount (s : State) (c : Cause) : (s.raiseFault c).freeCount = s.freeCount := rfl

@[simp] theorem doReset_S (s : State) : (s.doReset).S = Config.freeS s.freeCount := rfl
@[simp] theorem doReset_LIVE (s : State) : (s.doReset).LIVE = false := rfl
@[simp] theorem doReset_FAULT (s : State) : (s.doReset).FAULT = false := rfl
@[simp] theorem doReset_CAUSE (s : State) : (s.doReset).CAUSE = 0#4 := rfl
@[simp] theorem doReset_pending (s : State) : (s.doReset).pending = none := rfl
@[simp] theorem doReset_rspWait (s : State) : (s.doReset).rspWait = 0 := rfl
@[simp] theorem doReset_rstPrev (s : State) : (s.doReset).rstPrev = true := rfl
@[simp] theorem doReset_inputs (s : State) : (s.doReset).inputs = s.inputs := rfl
@[simp] theorem doReset_taken (s : State) : (s.doReset).taken = [] := rfl
@[simp] theorem doReset_freeCount (s : State) : (s.doReset).freeCount = s.freeCount + 1 := rfl

@[simp] theorem takeResponse_S (s : State) : (s.takeResponse).S = s.S := rfl
@[simp] theorem takeResponse_LIVE (s : State) : (s.takeResponse).LIVE = s.LIVE := rfl
@[simp] theorem takeResponse_FAULT (s : State) : (s.takeResponse).FAULT = s.FAULT := rfl
@[simp] theorem takeResponse_CAUSE (s : State) : (s.takeResponse).CAUSE = s.CAUSE := rfl
@[simp] theorem takeResponse_pending (s : State) : (s.takeResponse).pending = none := rfl
@[simp] theorem takeResponse_rspWait (s : State) : (s.takeResponse).rspWait = 0 := rfl
@[simp] theorem takeResponse_rstPrev (s : State) : (s.takeResponse).rstPrev = s.rstPrev := rfl
@[simp] theorem takeResponse_inputs (s : State) : (s.takeResponse).inputs = s.inputs := rfl
@[simp] theorem takeResponse_taken (s : State) : (s.takeResponse).taken = s.taken ++ s.pending.toList := rfl
@[simp] theorem takeResponse_freeCount (s : State) : (s.takeResponse).freeCount = s.freeCount := rfl

@[simp] theorem dropInput_S (s : State) : (dropInput s).S = s.S := rfl
@[simp] theorem dropInput_LIVE (s : State) : (dropInput s).LIVE = s.LIVE := rfl
@[simp] theorem dropInput_FAULT (s : State) : (dropInput s).FAULT = s.FAULT := rfl
@[simp] theorem dropInput_CAUSE (s : State) : (dropInput s).CAUSE = s.CAUSE := rfl
@[simp] theorem dropInput_pending (s : State) : (dropInput s).pending = s.pending := rfl
@[simp] theorem dropInput_rspWait (s : State) : (dropInput s).rspWait = s.rspWait := rfl
@[simp] theorem dropInput_rstPrev (s : State) : (dropInput s).rstPrev = s.rstPrev := rfl
@[simp] theorem dropInput_inputs (s : State) : (dropInput s).inputs = s.inputs.tail := rfl
@[simp] theorem dropInput_taken (s : State) : (dropInput s).taken = s.taken := rfl
@[simp] theorem dropInput_freeCount (s : State) : (dropInput s).freeCount = s.freeCount := rfl

@[simp] theorem offerNext_S (s : State) (w : Option CmdWord) : (offerNext s w).S = s.S := rfl
@[simp] theorem offerNext_LIVE (s : State) (w : Option CmdWord) : (offerNext s w).LIVE = s.LIVE := rfl
@[simp] theorem offerNext_FAULT (s : State) (w : Option CmdWord) : (offerNext s w).FAULT = s.FAULT := rfl
@[simp] theorem offerNext_CAUSE (s : State) (w : Option CmdWord) : (offerNext s w).CAUSE = s.CAUSE := rfl
@[simp] theorem offerNext_pending (s : State) (w : Option CmdWord) : (offerNext s w).pending = none := rfl
@[simp] theorem offerNext_rspWait (s : State) (w : Option CmdWord) : (offerNext s w).rspWait = 0 := rfl
@[simp] theorem offerNext_rstPrev (s : State) (w : Option CmdWord) : (offerNext s w).rstPrev = false := rfl
@[simp] theorem offerNext_inputs (s : State) (w : Option CmdWord) : (offerNext s w).inputs = offerPorts w :: s.inputs := rfl
@[simp] theorem offerNext_taken (s : State) (w : Option CmdWord) : (offerNext s w).taken = s.taken ++ s.pending.toList := rfl
@[simp] theorem offerNext_freeCount (s : State) (w : Option CmdWord) : (offerNext s w).freeCount = s.freeCount := rfl

@[simp] theorem reset_S : State.reset.S = 0#32 := rfl
@[simp] theorem reset_LIVE : State.reset.LIVE = false := rfl
@[simp] theorem reset_FAULT : State.reset.FAULT = false := rfl
@[simp] theorem reset_CAUSE : State.reset.CAUSE = 0#4 := rfl
@[simp] theorem reset_pending : State.reset.pending = none := rfl
@[simp] theorem reset_rspWait : State.reset.rspWait = 0 := rfl
@[simp] theorem reset_rstPrev : State.reset.rstPrev = true := rfl
@[simp] theorem reset_inputs : State.reset.inputs = [] := rfl
@[simp] theorem reset_taken : State.reset.taken = [] := rfl
@[simp] theorem reset_freeCount : State.reset.freeCount = 0 := rfl

end Sys2Proof.Laws
end

