-- ==== Sys2Proof/Laws/Ops.lean ====
section
/-!
SUPPORT. What each shared operation of the machine can do, said once: the halted check, the meanings, performing a
word, and a clock edge.
-/

namespace Sys2Proof.Laws

open Sys2Proof Sys2Proof.Machine

variable {lat : Nat} {p : PortsIn} {s t : State} {w : CmdWord} {i : Instr}

theorem unlessHalted_of_halted {u : State} (h : s.FAULT = true) : s.unlessHalted u = s.respond .halted 0#32 := by
  simp [State.unlessHalted, h]

theorem unlessHalted_of_running {u : State} (h : s.FAULT = false) : s.unlessHalted u = u := by
  simp [State.unlessHalted, h]

theorem cmdReady_iff : s.cmdReady = true ↔ s.pending = none ∧ s.rstPrev = false := by
  simp [State.cmdReady]

/-- Every instruction's meaning answers a next state. -/
theorem exec_next (i : Instr) (s : State) : ∃ t, exec i s = .next t := by
  cases i <;> exact ⟨_, rfl⟩

/-- Performing any word answers a next state. -/
theorem perform_next (w : CmdWord) (s : State) : ∃ t, perform w s = .next t := by
  unfold perform
  split
  · exact exec_next _ _
  · exact ⟨_, rfl⟩

/-- Everything `exec` can do, by the checks of R71. -/
theorem exec_cases (h : exec i s = .next t) :
    (i = .status ∧ t = s.respond .ok s.statusWord) ∨
    (i ≠ .status ∧ s.FAULT = true ∧ t = s.respond .halted 0#32) ∨
    (s.FAULT = false ∧
      ((∃ seed, i = .load seed ∧ s.LIVE = false ∧
          t = State.respond { s with S := coerceSeed seed, LIVE := true } .ok 0#32) ∨
       (∃ seed, i = .load seed ∧ s.LIVE = true ∧ t = s.raiseFault .loadWhileLive) ∨
       (i = .step ∧ s.LIVE = true ∧ t = State.respond { s with S := lcgStep s.S } .ok (lcgStep s.S)) ∨
       (i = .step ∧ s.LIVE = false ∧ t = s.raiseFault .stepNotLive) ∨
       (i = .release ∧ s.LIVE = true ∧ t = State.respond (State.forgetS { s with LIVE := false }) .ok 0#32) ∨
       (i = .release ∧ s.LIVE = false ∧ t = s.raiseFault .releaseNotLive))) := by
  cases i <;>
    simp only [exec, execLoad, execStep, execRelease, execStatus, Host.Outcome.next.injEq] at h <;>
    subst h <;> cases hf : s.FAULT <;> cases hl : s.LIVE <;> simp [State.unlessHalted, hf]

/-- Everything performing a word can do (R71). -/
theorem perform_cases (h : perform w s = .next t) :
    (∃ i, decode w = .command i ∧ exec i s = .next t) ∨
    (∃ why, decode w = .illegal why ∧ s.FAULT = true ∧ t = s.respond .halted 0#32) ∨
    (∃ why, decode w = .illegal why ∧ s.FAULT = false ∧ t = s.raiseFault .illegalCmd) := by
  unfold perform at h
  split at h
  · exact .inl ⟨_, ‹_›, h⟩
  · simp only [performIllegal, Host.Outcome.next.injEq] at h
    subst h
    cases hf : s.FAULT <;> simp [State.unlessHalted, *]

/-- Performing a word touches only the registers, the pending response and the free-value counter. -/
theorem perform_surroundings (h : perform w s = .next t) : SameSurroundings s t := by
  obtain ⟨i, -, h⟩ | ⟨_, -, -, rfl⟩ | ⟨_, -, -, rfl⟩ := perform_cases h
  · obtain ⟨-, rfl⟩ | ⟨-, -, rfl⟩ | ⟨-, ⟨_, -, -, rfl⟩ | ⟨_, -, -, rfl⟩ | ⟨-, -, rfl⟩ | ⟨-, -, rfl⟩ | ⟨-, -, rfl⟩ |
      ⟨-, -, rfl⟩⟩ := exec_cases h <;> exact ⟨rfl, rfl, rfl, rfl⟩
  all_goals exact ⟨rfl, rfl, rfl, rfl⟩

/-- Every performed word leaves exactly one response pending (R37). -/
theorem perform_pending (h : perform w s = .next t) : ∃ r, t.pending = some r := by
  obtain ⟨i, -, h⟩ | ⟨_, -, -, rfl⟩ | ⟨_, -, -, rfl⟩ := perform_cases h
  · obtain ⟨-, rfl⟩ | ⟨-, -, rfl⟩ | ⟨-, ⟨_, -, -, rfl⟩ | ⟨_, -, -, rfl⟩ | ⟨-, -, rfl⟩ | ⟨-, -, rfl⟩ | ⟨-, -, rfl⟩ |
      ⟨-, -, rfl⟩⟩ := exec_cases h <;> simp
  all_goals simp

/-- The three kinds of edge of one that answers a next state: a reset edge, an accepting edge, any other. -/
theorem edge_cases (h : edge lat p s = .next t) :
    (p.rst = true ∧ t = s.doReset) ∨
    (p.rst = false ∧ p.cmdValid = true ∧ s.cmdReady = true ∧
      ∃ w u, sampledCommand p = some w ∧ perform w s = .next u ∧ t = { u with rspWait := lat - 1 }) ∨
    (p.rst = false ∧ ¬(p.cmdValid = true ∧ s.cmdReady = true) ∧ t = s.idleEdge p.rspReady) := by
  unfold edge at h
  split at h
  · exact .inl ⟨‹_›, by simpa using h.symm⟩
  · have hr : p.rst = false := by simpa using ‹¬p.rst = true›
    split at h
    · obtain ⟨hv, hc⟩ : p.cmdValid = true ∧ s.cmdReady = true := by simpa using ‹(p.cmdValid && s.cmdReady) = true›
      refine .inr (.inl ⟨hr, hv, hc, ?_⟩)
      unfold accept at h
      split at h
      · cases h
      · obtain ⟨u, hu⟩ := perform_next ‹CmdWord› s
        rw [hu] at h
        exact ⟨_, u, ‹_›, hu, by simpa [onNext] using h.symm⟩
    · exact .inr (.inr ⟨hr, by simpa using ‹¬(p.cmdValid && s.cmdReady) = true›, by simpa using h.symm⟩)

/-- An edge is refused only for an accepted sample that is no definite word (U14). -/
theorem edge_refused {r : Refusal} (h : edge lat p s = .refused r) :
    p.rst = false ∧ p.cmdValid = true ∧ s.cmdReady = true ∧ sampledCommand p = none ∧ r = .undefinedSample := by
  unfold edge at h
  split at h
  · cases h
  · split at h
    · obtain ⟨hv, hc⟩ : p.cmdValid = true ∧ s.cmdReady = true := by simpa using ‹(p.cmdValid && s.cmdReady) = true›
      unfold accept at h
      split at h
      · exact ⟨by simpa using ‹¬p.rst = true›, hv, hc, ‹_›, by simpa using h.symm⟩
      · obtain ⟨u, hu⟩ := perform_next ‹CmdWord› s
        rw [hu] at h
        cases h
    · cases h

/-- What an edge that neither resets nor accepts does: count down, hand over a valid response, or nothing. -/
theorem idleEdge_cases (s : State) (ready : Bool) :
    (s.rspWait ≠ 0 ∧ s.idleEdge ready = { s with rstPrev := false, rspWait := s.rspWait - 1 }) ∨
    (s.rspWait = 0 ∧ ready = true ∧
      s.idleEdge ready = { s with rstPrev := false, rspWait := 0, pending := none, taken := s.taken ++ s.pending.toList }) ∨
    (s.rspWait = 0 ∧ ready = false ∧ s.idleEdge ready = { s with rstPrev := false }) := by
  unfold State.idleEdge State.takeResponse
  by_cases h : s.rspWait = 0 <;> cases ready <;> simp [h]

/-- Such an edge leaves the registers, the inputs and the free-value counter. -/
theorem idleEdge_registers (s : State) (ready : Bool) :
    SameRegisters (s.idleEdge ready) s ∧ (s.idleEdge ready).inputs = s.inputs ∧
      (s.idleEdge ready).freeCount = s.freeCount ∧ (s.idleEdge ready).rstPrev = false := by
  obtain ⟨-, h⟩ | ⟨-, -, h⟩ | ⟨-, -, h⟩ := idleEdge_cases s ready <;> rw [h] <;>
    exact ⟨⟨rfl, rfl, rfl, rfl⟩, rfl, rfl, rfl⟩

/-- While a response is pending, an edge without reset moves only the handshake (R105). -/
theorem edge_of_pending {r : Response} (hp : p.rst = false) (h : s.pending = some r) :
    edge lat p s = .next (s.idleEdge p.rspReady) := by
  simp [edge, hp, State.cmdReady, h]

/-- An edge with reset, in any state (R99). -/
theorem edge_of_reset (hp : p.rst = true) : edge lat p s = .next s.doReset := by
  simp [edge, hp]

/-- A run of edges goes on from the first edge's next state. -/
theorem clockRun_cons {ps : List PortsIn} (h : edge lat p s = .next t) :
    clockRun lat (p :: ps) s = clockRun lat ps t := by
  simp [clockRun, h]

/-- A command without time is performed and its response taken (R111). -/
theorem transact_of_perform (h : perform w s = .next t) : transact w s = .next t.takeResponse := by
  simp [transact, h, onNext]

/-- A step is an edge at the latency LAT with the head of the host's list. -/
theorem step_eq_edge (s : State) : step s = edge Config.LAT (drivenPorts s) (dropInput s) := rfl

/-- A platform goes on exactly where the unit does, with that unit at its position and every other unit as before. -/
theorem afterUnit_next {P P' : Platform} {k : Nat} {o : Host.Outcome State Fault Refusal} (hk : k < P.units.length)
    (h : afterUnit P k o = .next P') :
    ∃ t, o = .next t ∧ P'.units.length = P.units.length ∧ P'.units[k]? = some t ∧
      ∀ j, j ≠ k → P'.units[j]? = P.units[j]? := by
  unfold afterUnit at h
  split at h <;> cases h
  exact ⟨_, rfl, by simp, by simp [hk], fun j hj => by simp [Ne.symm hj]⟩

/-- The ports of an offered word carry that word. -/
theorem sampledCommand_offerPorts (w : CmdWord) : sampledCommand (offerPorts (some w)) = some w := by
  exact congrArg some (wordOf_fieldsOf w)

end Sys2Proof.Laws
end

