-- ==== Sys2Proof/Laws/PerInstr.lean ====
section
/-!
SUPPORT. What holds of every instruction as syntax: its word matches its own row of the opcode table, is a legal
command, and matches no other row.
-/

namespace Sys2Proof.Laws

open Sys2Proof

/-- The rows of the opcode table as `(mask, match)`, in its order: LOAD, STEP, RELEASE, STATUS (R57). -/
def tableRows : List (CmdWord × CmdWord) :=
  [(0xF00000000#36, 0x100000000#36), (0xFFFFFFFFF#36, 0x200000000#36), (0xFFFFFFFFF#36, 0x300000000#36),
   (0xFFFFFFFFF#36, 0x400000000#36)]

/-- The position of an instruction's row. -/
def rowOf : Instr → Nat
  | .load _ => 0
  | .step => 1
  | .release => 2
  | .status => 3

/-- The rows a word matches. -/
def rowsMatched (w : CmdWord) : List Nat :=
  (List.range 4).filter fun k => (tableRows[k]?).any fun row => w &&& row.1 == row.2

/-- The word of `i` is a legal command and matches its row and no other. -/
def TableRow.Statement (i : Instr) : Prop :=
  i.wf = true ∧ (fieldsOf (encode i)).wf = true ∧ rowsMatched (encode i) = [rowOf i]

/-- A full mask leaves a word unchanged, so a word whose opcode is not the row's does not match it. -/
theorem full_mask_beq {w m : CmdWord} (h : (fieldsOf w).op ≠ (fieldsOf m).op) :
    (w &&& 0xFFFFFFFFF#36 == m) = false := by
  rw [show w &&& 0xFFFFFFFFF#36 = w from BitVec.and_allOnes, beq_eq_false_iff_ne]
  rintro rfl
  exact h rfl

theorem TableRow.load (seed : Word) : TableRow.Statement (.load seed) := by
  have hop : (fieldsOf (encode (.load seed))).op = 0x1#4 := by simp [encode, opcodeOf]
  have hm : (encode (.load seed) &&& 0xF00000000#36 == 0x100000000#36) = true := by
    have h : (0x1#4 ++ seed) &&& (0xF#4 ++ 0#32) = 0x1#4 ++ 0#32 := by
      rw [BitVec.and_append, BitVec.and_zero]
      rfl
    exact beq_iff_eq.mpr h
  have h2 := full_mask_beq (w := encode (.load seed)) (m := 0x200000000#36) (by rw [hop]; decide)
  have h3 := full_mask_beq (w := encode (.load seed)) (m := 0x300000000#36) (by rw [hop]; decide)
  have h4 := full_mask_beq (w := encode (.load seed)) (m := 0x400000000#36) (by rw [hop]; decide)
  refine ⟨rfl, by simp [encode, Command.wf, Command.opAssigned, Command.dataLegal, opcodeOf], ?_⟩
  simp only [rowsMatched, show List.range 4 = [0, 1, 2, 3] from rfl, List.filter, tableRows, List.getElem?_cons_zero,
    List.getElem?_cons_succ, Option.any_some, hm, h2, h3, h4, rowOf]

theorem TableRow.step : TableRow.Statement .step := by unfold TableRow.Statement; decide

theorem TableRow.release : TableRow.Statement .release := by unfold TableRow.Statement; decide

theorem TableRow.status : TableRow.Statement .status := by unfold TableRow.Statement; decide

end Sys2Proof.Laws
end

