-- ==== Sys2Proof/Tests/Slice0.lean ====
section
/-!
SUPPORT. Tests against spec/95_test_vectors.md and the encodings of spec/30_encoding.md, and for every statement with
hypotheses a witness that meets them. Expected values are the spec's, not the model's.
-/

namespace Sys2Proof.Tests

open Sys2Proof Sys2Proof.Machine

/-- A unit `(S, LIVE, FAULT, CAUSE)` that is ready for a command and has nothing pending. -/
def unit (s : Word) (live fault : Bool) (cause : BitVec 4) : State :=
  { State.reset with S := s, LIVE := live, FAULT := fault, CAUSE := cause, rstPrev := false }

/-- A unit with a pending response and `wait` edges to its validity. -/
def waiting (r : Response) (wait : Nat) : State :=
  { unit 5#32 true false 0#4 with pending := some r, rspWait := wait }

/-- The registers and the response a test looks at. -/
structure Seen where
  S : Word
  live : Bool
  fault : Bool
  cause : BitVec 4
  response : Option Response
  deriving DecidableEq

/-- What a test sees of an outcome. -/
def seen : Host.Outcome State Fault Refusal → Option Seen
  | .next t => some ⟨t.S, t.LIVE, t.FAULT, t.CAUSE, t.pending⟩
  | .fault _ => none
  | .refused _ => none

/-- As `seen`, without S, which is unspecified after a RELEASE (R16). -/
def seenButS : Host.Outcome State Fault Refusal → Option (Bool × Bool × BitVec 4 × Option Response)
  | .next t => some (t.LIVE, t.FAULT, t.CAUSE, t.pending)
  | .fault _ => none
  | .refused _ => none

/-- The edge at which the host drives only `rst`. -/
def resetPorts : PortsIn := { idlePorts with rst := true }

/-- An edge with nothing offered and no readiness for a response. -/
def stallPorts : PortsIn := { idlePorts with rspReady := false }

/-! ### Well-formedness -/

/-- R47: the opcode check refuses 0x0 and 0x5, and accepts 0x1 and 0x4. -/
theorem test_opAssigned : Command.wf ⟨0x0#4, 0#32⟩ = false ∧ Command.wf ⟨0x5#4, 0#32⟩ = false ∧
    Command.wf ⟨0x1#4, 7#32⟩ = true ∧ Command.wf ⟨0x4#4, 0#32⟩ = true := by decide

/-- R48: the operand check refuses a STEP, a RELEASE and a STATUS with DATA other than 0. -/
theorem test_dataLegal : Command.wf ⟨0x2#4, 1#32⟩ = false ∧ Command.wf ⟨0x3#4, 0x80000000#32⟩ = false ∧
    Command.wf ⟨0x4#4, 1#32⟩ = false ∧ Command.wf ⟨0x2#4, 0#32⟩ = true := by decide

/-- R55: the range checks refuse a seed of 2^32 and a word of 2^36. -/
theorem test_asmLine_wf : AsmLine.wf (.load 4294967296) = false ∧ AsmLine.wf (.reseed 4294967296) = false ∧
    AsmLine.wf (.word 68719476736) = false ∧ AsmLine.wf (.load 4294967295) = true := by decide

/-! ### Decoding, words written out from R43 and R57 -/

theorem test_decode_load : decode 0b0001_00111110001101000101100100010001#36 = .command (.load 1043618065#32) := by decide

theorem test_decode_step : decode 0b0010_00000000000000000000000000000000#36 = .command .step := by decide

theorem test_decode_release : decode 0b0011_00000000000000000000000000000000#36 = .command .release := by decide

theorem test_decode_status : decode 0b0100_00000000000000000000000000000000#36 = .command .status := by decide

/-- V17 to V21: the reserved words. -/
theorem test_decode_reserved : decode 0x000000000#36 = .illegal (.reservedOpcode 0#4) ∧
    decode 0x500000000#36 = .illegal (.reservedOpcode 5#4) ∧ decode 0xF12345678#36 = .illegal (.reservedOpcode 15#4) ∧
    decode 0x200000001#36 = .illegal (.reservedOperand 2#4 1#32) ∧
    decode 0x400000001#36 = .illegal (.reservedOperand 4#4 1#32) := by decide

/-- The table's numbering: bits 39 to 36 of a five-byte row must be 0. -/
theorem test_decodeTableWord : decodeTableWord 40 0x1FFFFFFFF = some (.load 0xFFFFFFFF#32) ∧
    decodeTableWord 36 0x300000000 = some .release ∧ decodeTableWord 40 0x1200000000 = none := by decide

/-! ### The step function, the table of section 2.1 -/

theorem test_lcgStep_table : lcgStep 1#32 = 16807#32 ∧ lcgStep 127772#32 = 2147464004#32 ∧
    lcgStep 127773#32 = 2147480811#32 ∧ lcgStep 739806647#32 = 2147483646#32 ∧ lcgStep 1407677000#32 = 1#32 := by decide

theorem test_lcgStep_high : lcgStep 2147483646#32 = 2147466840#32 ∧ lcgStep 2147483647#32 = 2147483647#32 ∧
    lcgStep 0xDEADBEEF#32 = 1624420127#32 ∧ lcgStep 4294961622#32 = 2052154343#32 ∧
    lcgStep 4294967294#32 = 2147483647#32 ∧ lcgStep 4294967295#32 = 16807#32 := by decide

/-- `test` at its bounds (R60). -/
theorem test_stepTest_bounds : stepTest 4294961622#32 = -95329304 ∧ stepTest 127772#32 = 2147464004 := by decide

/-- G2 gives 0 at 0 and M at M and 2M. -/
theorem test_cartaFold : cartaFold 0#32 = 0#32 ∧ cartaFold 2147483647#32 = 2147483647#32 ∧
    cartaFold 4294967294#32 = 2147483647#32 ∧ cartaFold 3735928559#32 = 1624420127#32 := by decide

/-! ### The commands, the vectors of section 2.2 -/

/-- V2 and V3: coercion and no range check. -/
theorem test_load_coerces : seen (perform 0x100000000#36 (unit 0#32 false false 0#4)) = some ⟨1#32, true, false, 0#4, some ⟨.ok, 0#32⟩⟩ ∧
    seen (perform 0x1FFFFFFFF#36 (unit 0#32 false false 0#4)) = some ⟨0xFFFFFFFF#32, true, false, 0#4, some ⟨.ok, 0#32⟩⟩ := by decide

/-- V5 and V25: LOAD while live, and while halted. -/
theorem test_load_faults : seen (perform 0x100000009#36 (unit 5#32 true false 0#4)) = some ⟨5#32, true, true, 4#4, some ⟨.fault, 0#32⟩⟩ ∧
    seen (perform 0x100000003#36 (unit 7#32 true true 1#4)) = some ⟨7#32, true, true, 1#4, some ⟨.halted, 0#32⟩⟩ := by decide

/-- V7 and V9: the fixed point, and the largest state in range. -/
theorem test_step_advances :
    seen (perform 0x200000000#36 (unit 0x7FFFFFFF#32 true false 0#4)) =
      some ⟨0x7FFFFFFF#32, true, false, 0#4, some ⟨.ok, 2147483647#32⟩⟩ ∧
    seen (perform 0x200000000#36 (unit 2147483646#32 true false 0#4)) =
      some ⟨2147466840#32, true, false, 0#4, some ⟨.ok, 2147466840#32⟩⟩ := by decide

/-- V10 and V23: STEP on a unit that is not live, and on a halted one. -/
theorem test_step_faults : seen (perform 0x200000000#36 (unit 9#32 false false 0#4)) = some ⟨9#32, false, true, 2#4, some ⟨.fault, 0#32⟩⟩ ∧
    seen (perform 0x200000000#36 (unit 7#32 true true 1#4)) = some ⟨7#32, true, true, 1#4, some ⟨.halted, 0#32⟩⟩ := by decide

/-- V11: nothing is said of S. -/
theorem test_release : seenButS (perform 0x300000000#36 (unit 16807#32 true false 0#4)) = some (false, false, 0#4, some ⟨.ok, 0#32⟩) := by
  decide

/-- V12. -/
theorem test_release_faults : seen (perform 0x300000000#36 (unit 9#32 false false 0#4)) = some ⟨9#32, false, true, 3#4, some ⟨.fault, 0#32⟩⟩ := by
  decide

/-- V13 and V14: the status word of a unit that is not halted. -/
theorem test_status : seen (perform 0x400000000#36 (unit 0#32 false false 0#4)) = some ⟨0#32, false, false, 0#4, some ⟨.ok, 0x00000100#32⟩⟩ ∧
    seen (perform 0x400000000#36 (unit 1#32 true false 0#4)) = some ⟨1#32, true, false, 0#4, some ⟨.ok, 0x00000101#32⟩⟩ := by decide

/-- V15, V16 and V22: the status word while halted. -/
theorem test_status_halted :
    seen (perform 0x400000000#36 (unit 0#32 false true 2#4)) = some ⟨0#32, false, true, 2#4, some ⟨.ok, 0x00000122#32⟩⟩ ∧
    seen (perform 0x400000000#36 (unit 5#32 true true 4#4)) = some ⟨5#32, true, true, 4#4, some ⟨.ok, 0x00000143#32⟩⟩ ∧
    seen (perform 0x400000000#36 (unit 7#32 true true 1#4)) = some ⟨7#32, true, true, 1#4, some ⟨.ok, 0x00000113#32⟩⟩ := by decide

/-- V20, V21 and V24: a reserved operand, on a unit that is not halted and on one that is. -/
theorem test_illegal : seen (perform 0x200000001#36 (unit 7#32 true false 0#4)) = some ⟨7#32, true, true, 1#4, some ⟨.fault, 0#32⟩⟩ ∧
    seen (perform 0x400000001#36 (unit 7#32 true false 0#4)) = some ⟨7#32, true, true, 1#4, some ⟨.fault, 0#32⟩⟩ ∧
    seen (perform 0x400000001#36 (unit 7#32 true true 1#4)) = some ⟨7#32, true, true, 1#4, some ⟨.halted, 0#32⟩⟩ := by decide

/-- V26: reset of a halted unit. -/
theorem test_reset_edge : seenButS (edge 1 resetPorts (unit 7#32 true true 1#4)) = some (false, false, 0#4, none) := by decide

/-- R53, R54 with LAT = 2: the word offered at the edge is accepted, and its response waits one edge. -/
theorem test_accept_waits : ∃ t, edge 2 (offerPorts (some 0x200000000#36)) (unit 1#32 true false 0#4) = .next t ∧
    t.pending = some ⟨.ok, 16807#32⟩ ∧ t.rspWait = 1 ∧ t.validResponse = none ∧ t.cmdReady = false := ⟨_, rfl, by decide⟩

/-- R100: right after reset a word offered is not accepted. -/
theorem test_first_cycle_not_ready : seen (edge 1 (offerPorts (some 0x100000005#36)) State.reset) =
    some ⟨0#32, false, false, 0#4, none⟩ := by decide

/-- R55, R56: a text with a comment, mixed case, every literal form, `.rep` and RESEED. -/
theorem test_assembleText :
    assembleText "Load 0x5 ; seed\n.rep 2\n step\n.endr\n\nRESEED 0b11\nSTATUS\n.word 0x5000000aF".toList =
      .ok [0x100000005#36, 0x200000000#36, 0x200000000#36, 0x300000000#36, 0x100000003#36, 0x400000000#36, 0x5000000AF#36] := by
  decide

/-- R55: a seed of 2^32, a `.word` of eight digits and an open `.rep` are rejected. -/
theorem test_assembleText_rejects : assembleText "LOAD 4294967296".toList = .error .valueOutOfRange ∧
    assembleText ".word 0x00000001".toList = .error .badLine ∧ assembleText ".rep 3\nSTEP".toList = .error .repWithoutEndr := by
  decide

/-! ### Witnesses of the statements' hypotheses -/

theorem witness_DecodeFollowsPatterns : (0x1FFFFFFFF#36 : CmdWord).extractLsb' 32 4 = 0x1#4 ∧
    ((0x200000001#36 : CmdWord).extractLsb' 32 4 ≠ 0x1#4 ∧ 0x200000001#36 ≠ 0x200000000#36 ∧
      0x200000001#36 ≠ 0x300000000#36 ∧ 0x200000001#36 ≠ 0x400000000#36) ∧
    ((0xFFFFFFFFF#36 : CmdWord).extractLsb' 32 4 ≠ 0x1#4) := by decide

theorem witness_StepFollowsFactoring :
    ((127772#32 : Word).toNat = 127773 * 0 + 127772 ∧ 2836 * 0 < 16807 * 127772) ∧
    ((2147483647#32 : Word).toNat = 127773 * 16807 + 2836 ∧ 16807 * 2836 ≤ 2836 * 16807) := by decide

theorem witness_IntermediatesFitThirtyTwoBits : stepTest 127773#32 ≤ 0 := by decide

theorem witness_ZeroTestReturnsModulus : stepTest 2147483647#32 = 0 := by decide

theorem witness_StepClosedForm : 16807 * (4294967295#32 : Word).toNat % 2147483647 ≠ 0 ∧
    16807 * (4294967294#32 : Word).toNat % 2147483647 = 0 := by decide

theorem witness_StepOutputRange : (2147483646#32 : Word).toNat % 2147483647 ≠ 0 ∧ (0#32 : Word).toNat % 2147483647 = 0 := by
  decide

/-- Also for StepIteratesLikeFpRef and the second clause of ModulusIsFixedPoint: both ends of `[1, M − 1]`. -/
theorem witness_StepIsOneFullCycle : (1 ≤ (1#32 : Word).toNat ∧ (1#32 : Word).toNat ≤ 2147483646) ∧
    1 ≤ (2147483646#32 : Word).toNat ∧ (2147483646#32 : Word).toNat ≤ 2147483646 := by decide

theorem witness_StepDependsOnResidueOnly : (4294967295#32 : Word).toNat % 2147483647 = (1#32 : Word).toNat % 2147483647 := by
  decide

theorem witness_ModulusIsFixedPoint : LiveNonzero (unit 0#32 false false 0#4) ∧
    ∃ t, exec (.load 4294967294#32) (unit 0#32 false false 0#4) = .next t ∧ t.LIVE = true ∧ t.S = 4294967294#32 :=
  ⟨by decide, _, rfl, by decide⟩

theorem witness_FpRefDiffersAtMultiplesOfModulus : fpRef 4294967294 = 0 ∧ fpRef 4294967295 = 16807 := by decide

theorem witness_CartaFoldIsConforming : (4294967295#32 : Word) ≠ 0#32 := by decide

theorem witness_LoadCreatesGenerator :
    (unit 3#32 false false 0#4).FAULT = false ∧ (unit 3#32 false false 0#4).LIVE = false := by decide

/-- Also for ReleaseDestroysGenerator and the last clause of LiveGeneratorIsNeverZero. -/
theorem witness_StepAdvancesGenerator :
    (unit 0xFFFFFFFF#32 true false 0#4).FAULT = false ∧ (unit 0xFFFFFFFF#32 true false 0#4).LIVE = true := by decide

theorem witness_ViolationsFaultWithTheirCause :
    (unit 0#32 false false 0#4).FAULT = false ∧ (∃ why, decode 0x000000000#36 = .illegal why) ∧
    (decode 0x200000000#36 = .command .step ∧ (unit 0#32 false false 0#4).LIVE = false) ∧
    decode 0x300000000#36 = .command .release ∧
    (decode 0x1FFFFFFFF#36 = .command (.load 0xFFFFFFFF#32) ∧ (unit 1#32 true false 0#4).LIVE = true) ∧
    ∃ t, perform 0x000000000#36 (unit 0#32 false false 0#4) = .next t ∧ t.FAULT = true :=
  ⟨rfl, ⟨_, rfl⟩, by decide, by decide, by decide, _, rfl, rfl⟩

/-- Reserved words at the edges of the reserved ranges: OP 0x0, 0x5 and 0xF, and the least and greatest reserved DATA. -/
theorem witness_ReservedWordsAreIllegal : (∃ why, decode 0x5FFFFFFFF#36 = .illegal why) ∧
    (∃ why, decode 0xF00000000#36 = .illegal why) ∧ (∃ why, decode 0x200000001#36 = .illegal why) ∧
    (∃ why, decode 0x4FFFFFFFF#36 = .illegal why) ∧ (unit 7#32 true false 0#4).FAULT = false ∧
    (unit 7#32 true true 1#4).FAULT = true := ⟨⟨_, rfl⟩, ⟨_, rfl⟩, ⟨_, rfl⟩, ⟨_, rfl⟩, rfl, rfl⟩

/-- Also for FaultPortIsLevelUntilReset. -/
theorem witness_HaltedUntilReset : (unit 7#32 true true 1#4).FAULT = true ∧
    ((unit 7#32 true true 1#4).portsOut false).fault = true ∧ (0x400000001#36 : CmdWord) ≠ 0x400000000#36 ∧
    (∃ t, edge 2 (offerPorts (some 0x100000003#36)) (unit 7#32 true true 1#4) = .next t) ∧
    ∃ t, edge 2 resetPorts (unit 7#32 true true 1#4) = .next t := ⟨rfl, rfl, by decide, ⟨_, rfl⟩, _, rfl⟩

/-- One word of each outcome: OK, FAULT and HALTED. -/
theorem witness_ResponseDataByOutcome :
    (∃ t, perform 0x200000000#36 (unit 1#32 true false 0#4) = .next t ∧ t.pending = some ⟨.ok, 16807#32⟩) ∧
    (∃ t, perform 0x200000000#36 (unit 1#32 false false 0#4) = .next t ∧ t.pending = some ⟨.fault, 0#32⟩) ∧
    ∃ t, perform 0x200000000#36 (unit 1#32 true true 1#4) = .next t ∧ t.pending = some ⟨.halted, 0#32⟩ :=
  ⟨⟨_, rfl, by decide⟩, ⟨_, rfl, by decide⟩, _, rfl, by decide⟩

/-- One command for each register that changes. -/
theorem witness_CommandFrame :
    (∃ t, exec .step (unit 1#32 true false 0#4) = .next t ∧ t.S ≠ 1#32) ∧
    (∃ t, exec .release (unit 1#32 true false 0#4) = .next t ∧ t.LIVE ≠ true ∧ t.freeCount ≠ 0) ∧
    ∃ t, exec (.load 1#32) (unit 1#32 true false 0#4) = .next t ∧ t.FAULT ≠ false ∧ t.CAUSE ≠ 0#4 :=
  ⟨⟨_, rfl, by decide⟩, ⟨_, rfl, by decide⟩, _, rfl, by decide⟩

theorem witness_LiveGeneratorIsNeverZero : LiveNonzero (unit 1#32 true false 0#4) ∧ (0xFFFFFFFF#32 : Word) ≠ 0#32 ∧
    ∃ t, edge 1 (offerPorts (some 0x200000000#36)) (unit 1#32 true false 0#4) = .next t := ⟨by decide, by decide, _, rfl⟩

theorem witness_StatusFieldsStayLegal : CauseLegal (unit 1#32 true true 4#4) ∧
    ∃ t, edge 1 (offerPorts (some 0x200000000#36)) (unit 1#32 true true 4#4) = .next t := ⟨by decide, _, rfl⟩

/-- The greatest legal cause code. -/
theorem witness_HostReadsBackReports : CauseLegal (unit 1#32 true true 4#4) ∧
    readStatusWord 0x00000143#32 = some (true, true, 4#4) ∧ readStatusWord 0x00000153#32 = none ∧
    readStatusWord 0x00000102#32 = none ∧ readStatusWord 0x00000110#32 = none := by decide

/-- Also for HoldingResetHasNoFurtherEffect and ReadyFromSecondCycleAfterReset. -/
theorem witness_ResetLeavesListedValues : resetPorts.rst = true ∧ idlePorts.rst = false ∧ idlePorts.cmdValid = false ∧
    (unit 1#32 true false 0#4).cmdReady = true ∧
    (∃ t, edge 1 idlePorts (unit 1#32 true false 0#4) = .next t) ∧
    ∃ t u v, edge 1 resetPorts (waiting ⟨.ok, 5#32⟩ 1) = .next t ∧ edge 1 resetPorts t = .next u ∧ edge 1 idlePorts t = .next v :=
  ⟨rfl, rfl, rfl, rfl, ⟨_, rfl⟩, _, _, _, rfl, rfl, rfl⟩

/-- An edge that accepts, an edge that does not, and edges after which cmd_ready is 1 and 0. -/
theorem witness_CommandHandshake : (offerPorts (some 0x400000000#36)).rst = false ∧
    (offerPorts (some 0x400000000#36)).cmdValid = true ∧ (unit 1#32 true false 0#4).cmdReady = true ∧
    sampledCommand (offerPorts (some 0x400000000#36)) = some 0x400000000#36 ∧
    (waiting ⟨.ok, 5#32⟩ 1).cmdReady = false ∧ ∃ t, edge 1 idlePorts (waiting ⟨.ok, 5#32⟩ 1) = .next t :=
  ⟨rfl, rfl, rfl, by decide, rfl, _, rfl⟩

theorem witness_StepRunsDecodedInstruction :
    let p := offerPorts (some 0x200000000#36)
    ({ unit 1#32 true false 0#4 with inputs := [p] } : State).inputs = p :: [] ∧ p.rst = false ∧ p.cmdValid = true ∧
      (unit 1#32 true false 0#4).pending = none ∧ (unit 1#32 true false 0#4).rstPrev = false ∧
      sampledCommand p = some 0x200000000#36 ∧ decode 0x200000000#36 = .command .step := by decide

theorem witness_PlacedWordRuns : decodeTableWord 40 0x100000005 = some (.load 5#32) := by decide

/-- LAT = 3: after no further edge, after one, and after two, where the response becomes valid. -/
theorem witness_ResponseLatency : ∃ t, edge 3 (offerPorts (some 0x200000000#36)) (unit 1#32 true false 0#4) = .next t ∧
    t.validResponse = none ∧
    (∃ u, clockRun 3 [idlePorts] t = .next u ∧ u.validResponse = none) ∧
    ∃ u, clockRun 3 [idlePorts, stallPorts] t = .next u ∧ u.validResponse = some ⟨.ok, 16807#32⟩ :=
  ⟨_, rfl, by decide, ⟨_, rfl, by decide⟩, _, rfl, by decide⟩

/-- A valid response with the host ready and not ready, and one not valid yet. -/
theorem witness_ValidResponseTakenOnce : (waiting ⟨.ok, 5#32⟩ 0).validResponse = some ⟨.ok, 5#32⟩ ∧
    (waiting ⟨.ok, 5#32⟩ 1).validResponse = none ∧ idlePorts.rspReady = true ∧ stallPorts.rspReady = false ∧
    (∃ t, edge 1 idlePorts (waiting ⟨.ok, 5#32⟩ 0) = .next t ∧ t.taken = [⟨.ok, 5#32⟩]) ∧
    (∃ t, edge 1 stallPorts (waiting ⟨.ok, 5#32⟩ 0) = .next t) ∧ ∃ t, edge 1 idlePorts (waiting ⟨.ok, 5#32⟩ 1) = .next t :=
  ⟨by decide, by decide, rfl, rfl, ⟨_, rfl, by decide⟩, ⟨_, rfl⟩, _, rfl⟩

theorem witness_BackPressureLosesNothing : (∀ q ∈ [stallPorts, stallPorts], q.rst = false ∧ q.rspReady = false) ∧
    (waiting ⟨.ok, 5#32⟩ 0).validResponse = some ⟨.ok, 5#32⟩ := by decide

/-- An accepting edge, a pending response that stays, and one that is taken. -/
theorem witness_OneCommandOutstanding :
    (∃ t, edge 1 (offerPorts (some 0x400000000#36)) (unit 1#32 true false 0#4) = .next t) ∧
    (∃ t, edge 1 stallPorts (waiting ⟨.ok, 5#32⟩ 0) = .next t ∧ t.pending = some ⟨.ok, 5#32⟩) ∧
    ∃ t, edge 1 idlePorts (waiting ⟨.ok, 5#32⟩ 0) = .next t ∧ t.cmdReady = true :=
  ⟨⟨_, rfl⟩, ⟨_, rfl, by decide⟩, _, rfl, by decide⟩

/-- LAT = 2: not ready after one edge, ready after two. -/
theorem witness_MinimumCommandSpacing : ∃ t, edge 2 (offerPorts (some 0x200000000#36)) (unit 1#32 true false 0#4) = .next t ∧
    (∃ u, clockRun 2 [idlePorts] t = .next u ∧ u.cmdReady = false) ∧
    ∃ u, clockRun 2 [idlePorts, idlePorts] t = .next u ∧ u.cmdReady = true :=
  ⟨_, rfl, ⟨_, rfl, by decide⟩, _, rfl, by decide⟩

theorem witness_StepStopsOnlyOnIndefiniteSample :
    step { unit 1#32 true false 0#4 with inputs := [offerPorts none] } = .refused .undefinedSample := rfl

theorem witness_StepKeepsInvariant :
    UnitInvariant Config.LAT (unit 1#32 true false 0#4) ∧ ∃ t, step (unit 1#32 true false 0#4) = .next t :=
  ⟨⟨by decide, by decide, by decide, by decide, by decide, Nat.zero_le _, by decide⟩, _, rfl⟩

/-- Also for EqualCommandsEqualResponses: two units that are not live and hold different values of S. -/
theorem witness_HiddenGeneratorNeverShows : SameButHiddenS (unit 0#32 false false 0#4) (unit 9#32 false false 0#4) ∧
    unit 0#32 false false 0#4 ≠ unit 9#32 false false 0#4 := by decide

/-- P5: an illegal command first. -/
theorem witness_FaultedRunEndsHalted : ∃ t, transactAll [0x000000000#36, 0x400000000#36] State.reset = .next t ∧
    t.taken = [⟨.fault, 0#32⟩, ⟨.ok, 0x00000112#32⟩] := ⟨_, rfl, by decide⟩

theorem witness_ClockedUnitRefinesTransactions : (unit 1#32 true false 0#4).pending = none ∧
    (unit 1#32 true false 0#4).rspWait = 0 ∧ (∀ q ∈ [offerPorts (some 0x200000000#36), idlePorts], q.rst = false) ∧
    ∃ t, clockRun 1 [offerPorts (some 0x200000000#36), idlePorts] (unit 1#32 true false 0#4) = .next t ∧
      t.taken = [⟨.ok, 16807#32⟩] := ⟨rfl, rfl, by decide, _, rfl, by decide⟩

theorem witness_SequenceAfterLoad : (unit 0#32 false false 0#4).FAULT = false ∧ (unit 0#32 false false 0#4).LIVE = false ∧
    (∀ i ∈ [Instr.step, Instr.status, Instr.step], i = .step ∨ i = .status) ∧
    [Instr.step, Instr.status, Instr.step][2]? = some .step := by decide

/-- The second of two units steps. -/
theorem witness_UnitsAreIndependent : ∃ P', stepUnit { units := [unit 1#32 true false 0#4, unit 2#32 true false 0#4] } ⟨1, by decide⟩ = .next P' :=
  ⟨_, rfl⟩

/-- A platform of one unit, a bus that carries a command word, and a routing of every unit to line 7. -/
theorem witness_PlatformParametersActThroughPorts :
    let bus : BusBinding CmdWord PortsOut := { drive := fun _ w => offerPorts (some w), answer := fun _ o => o }
    let bus' : BusBinding (Option CmdWord) Bool := { drive := fun _ w => offerPorts w, answer := fun _ o => o.fault }
    let P : Platform := { units := [unit 7#32 true true 1#4] }
    (∃ P', busEdge 1 bus 0x200000000#36 P ⟨0, by decide⟩ = .next P') ∧
      bus.drive 0 0x200000000#36 = bus'.drive 0 (some 0x200000000#36) ∧
      busReply bus' none P ⟨0, by decide⟩ = true ∧
      routedFault (fun _ => some 7) P ⟨0, by decide⟩ = some (7, true) := ⟨⟨_, rfl⟩, rfl, rfl, rfl⟩

theorem witness_AssemblerEmits : (4294967295 : Nat) < 2 ^ 32 ∧ (2 : Nat) ^ 32 ≤ 4294967296 ∧
    assembleLines [.step, .rep 2, .status, .endr] = .ok [0x200000000#36, 0x400000000#36, 0x400000000#36] := by decide

end Sys2Proof.Tests
end

namespace Sys2Proof.Proofs

open Sys2Proof Sys2Proof.Machine Sys2Proof.Laws

/-! ### O50: the platform's parameters -/

/-- A bus edge goes on exactly where the unit's edge at the driven ports does, and no other unit changes. -/
theorem busEdge_next {Request Reply : Type} {bus : BusBinding Request Reply} {lat : Nat} {r : Request}
    {P P' : Platform} {k : Fin P.units.length} (h : busEdge lat bus r P k = .next P') :
    P'.units.length = P.units.length ∧
      (∃ t, edge lat (bus.drive k r) P.units[k] = .next t ∧ P'.units[k.val]? = some t) ∧
      ∀ j, j ≠ k.val → P'.units[j]? = P.units[j]? := by
  obtain ⟨t, hedge, hlen, hk, hothers⟩ := afterUnit_next k.isLt h
  exact ⟨hlen, ⟨t, hedge, hk⟩, hothers⟩

/-- A bus edge depends on the binding and the request only through the ports they drive. -/
theorem busEdge_eq_of_drive_eq {Request Request' Reply Reply' : Type} {bus : BusBinding Request Reply}
    {bus' : BusBinding Request' Reply'} {r : Request} {r' : Request'} (lat : Nat) (P : Platform)
    (k : Fin P.units.length) (h : bus.drive k r = bus'.drive k r') :
    busEdge lat bus r P k = busEdge lat bus' r' P k :=
  congrArg (fun p => afterUnit P k (edge lat p P.units[k])) h

/-- The `fault` port is the FAULT register (R29). -/
@[simp] theorem portsOut_fault (s : State) (rst : Bool) : (s.portsOut rst).fault = s.FAULT := rfl

theorem routedFault_eq_some_iff {Line : Type} {routing : FaultRouting Line} {P : Platform}
    {k : Fin P.units.length} {line : Line} {level : Bool} :
    routedFault routing P k = some (line, level) ↔ routing k = some line ∧ level = P.units[k].FAULT := by
  simp [routedFault, eq_comm]

/-- Settles O50, one clause per parameter: the bus reaches a unit through `edge` and the driven ports alone, and a
routed line carries the `fault` port. -/
theorem platformParametersActThroughPorts : Obligations.PlatformParametersActThroughPorts :=
  ⟨fun _ _ _ _ _ _ _ _ => busEdge_next,
    fun _ _ _ _ _ _ lat _ _ P k => busEdge_eq_of_drive_eq lat P k,
    fun _ _ _ _ _ _ => routedFault_eq_some_iff⟩

/-! ### The handshake's fields do not enter a command's effect -/

section Handshake

variable (n : Nat) (b : Bool) {s t t' u u' : State}

/-- The state with other values in the two fields that only clock edges read: the wait of R54 and the previous `rst`
of R53. -/
def withHandshake (s : State) : State :=
  { s with rspWait := n, rstPrev := b }

/-- Setting the handshake's fields commutes with a choice between two states. -/
theorem ite_withHandshake {c : Prop} [Decidable c] (ht : t' = withHandshake n b t) (hu : u' = withHandshake n b u) :
    (if c then t' else u') = withHandshake n b (if c then t else u) := by
  rw [ht, hu, apply_ite (withHandshake n b)]

/-- The halted check reads neither field of the handshake and keeps both. -/
theorem unlessHalted_withHandshake (hu : u' = withHandshake n b u) :
    (withHandshake n b s).unlessHalted u' = withHandshake n b (s.unlessHalted u) :=
  ite_withHandshake n b rfl hu

/-- A command reads neither field of the handshake and keeps both. -/
theorem exec_withHandshake (i : Instr) (s : State) :
    exec i (withHandshake n b s) = onNext (exec i s) (withHandshake n b) := by
  cases i with
  | load _ | step | release =>
    exact congrArg Host.Outcome.next (unlessHalted_withHandshake n b (ite_withHandshake n b rfl rfl))
  | status => rfl

/-- Performing a word reads neither field of the handshake and keeps both. -/
theorem perform_withHandshake (w : CmdWord) (s : State) :
    perform w (withHandshake n b s) = onNext (perform w s) (withHandshake n b) := by
  unfold perform
  cases decode w with
  | command i => exact exec_withHandshake n b i s
  | illegal _ => exact congrArg Host.Outcome.next (unlessHalted_withHandshake n b rfl)

end Handshake

/-! ### Runs of edges and runs without time, one element at a time -/

section Runs

variable {lat : Nat} {p : PortsIn} {ps : List PortsIn} {s t u : State} {w : CmdWord} {ws : List CmdWord}

theorem clockRun_cons_next (h : clockRun lat (p :: ps) s = .next t) :
    ∃ u, edge lat p s = .next u ∧ clockRun lat ps u = .next t := by
  unfold clockRun at h
  split at h
  · exact ⟨_, ‹_›, h⟩
  · cases h
  · cases h

theorem transactAll_cons (h : transact w s = .next u) : transactAll (w :: ws) s = transactAll ws u := by
  simp [transactAll, h]

theorem acceptedWords_cons_of_accepting (hrst : p.rst = false) (hvalid : p.cmdValid = true)
    (hready : s.cmdReady = true) (hw : sampledCommand p = some w) (h : edge lat p s = .next t) :
    acceptedWords lat (p :: ps) s = w :: acceptedWords lat ps t := by
  simp [acceptedWords, hrst, hvalid, hready, hw, h]

theorem acceptedWords_cons_of_not_accepting (hidle : ¬(p.cmdValid = true ∧ s.cmdReady = true))
    (h : edge lat p s = .next t) : acceptedWords lat (p :: ps) s = acceptedWords lat ps t := by
  have hnone : ¬((!p.rst && p.cmdValid && s.cmdReady) = true) := by
    simp only [Bool.and_eq_true]
    exact fun ⟨⟨_, hvalid⟩, hready⟩ => hidle ⟨hvalid, hready⟩
  simp [acceptedWords, hnone, h]

end Runs

/-! ### O47: the clocked unit refines the unit without time -/

section Refinement

variable {lat : Nat} {s t : State}

/-- The abstraction of the refinement. The unit without time takes each response at once, so it stands where the
clocked unit stands once its pending response is taken; `b` is the `rstPrev` it started with, which it never changes. -/
def settled (b : Bool) (s : State) : State :=
  withHandshake 0 b s.takeResponse

theorem settled_of_pending_none (b : Bool) (h : s.pending = none) : settled b s = withHandshake 0 b s := by
  simp [settled, withHandshake, State.takeResponse, h]

theorem settled_eq_self (hp : s.pending = none) (hw : s.rspWait = 0) : settled s.rstPrev s = s := by
  rw [settled_of_pending_none _ hp, withHandshake, ← hw]

/-- An edge that neither resets nor accepts is a stutter: counting down, handing over the response and stalling do not
show without time. -/
theorem settled_idleEdge (b ready : Bool) (s : State) : settled b (s.idleEdge ready) = settled b s := by
  obtain ⟨-, h⟩ | ⟨-, -, h⟩ | ⟨-, -, h⟩ := idleEdge_cases s ready
  · rw [h]; rfl
  · simp [h, settled, withHandshake, State.takeResponse]
  · rw [h]; rfl

/-- An accepting edge is one command without time: the effect is the same and the response, only waiting in the clocked
unit, is the one taken (log entry 2). -/
theorem transact_settled (b : Bool) {w : CmdWord} {u : State} (hp : s.pending = none)
    (h : perform w s = .next u) :
    transact w (settled b s) = .next (settled b { u with rspWait := lat - 1 }) := by
  have hperform : perform w (settled b s) = .next (withHandshake 0 b u) := by
    rw [settled_of_pending_none b hp, perform_withHandshake, h]
    rfl
  exact transact_of_perform hperform

/-- The refinement along a run: the words accepted at its edges lead, without time, from where its start stands to where
its end stands. -/
theorem transactAll_acceptedWords_settled (b : Bool) (ps : List PortsIn) (s : State)
    (hrst : ∀ q ∈ ps, q.rst = false) (h : clockRun lat ps s = .next t) :
    transactAll (acceptedWords lat ps s) (settled b s) = .next (settled b t) := by
  induction ps generalizing s with
  | nil =>
    cases h
    rfl
  | cons p ps ih =>
    obtain ⟨m, hedge, hrun⟩ := clockRun_cons_next h
    have ihm := ih m (fun q hq => hrst q (List.mem_cons_of_mem p hq)) hrun
    obtain ⟨hreset, -⟩ | ⟨hr, hvalid, hready, w, u, hw, hu, rfl⟩ | ⟨-, hidle, rfl⟩ := edge_cases hedge
    · simp [hrst p List.mem_cons_self] at hreset
    · rw [acceptedWords_cons_of_accepting hr hvalid hready hw hedge,
        transactAll_cons (transact_settled b (cmdReady_iff.mp hready).1 hu)]
      exact ihm
    · rw [acceptedWords_cons_of_not_accepting hidle hedge, ← settled_idleEdge b p.rspReady s]
      exact ihm

end Refinement

/-- Settles O47, by the refinement along a run: at its start nothing is pending, so the unit without time stands in the
same state, and at its end it has the clocked unit's registers and has taken the pending response too. -/
theorem clockedUnitRefinesTransactions : Obligations.ClockedUnitRefinesTransactions := by
  intro lat ps s t hp hw hrst h
  have hrun := transactAll_acceptedWords_settled s.rstPrev ps s hrst h
  rw [settled_eq_self hp hw] at hrun
  exact ⟨settled s.rstPrev t, hrun, ⟨rfl, rfl, rfl, rfl⟩, rfl⟩

end Sys2Proof.Proofs

namespace Sys2Proof.Proofs

open Sys2Proof Sys2Proof.Machine Sys2Proof.Laws

/-! ### The decoder undoes the encoder -/

/-- A command's own word decodes to it (R43, R46, R57). -/
@[simp] theorem decode_encode (i : Instr) : decode (encode i) = .command i := by
  cases i <;> simp [decode, encode, decodeFields, withoutOperand, opcodeOf, operandOf]

theorem perform_encode (i : Instr) (s : State) : perform (encode i) s = exec i s := by
  rw [perform, decode_encode]

/-! ### The values that enter S and CAUSE -/

theorem lcgStep_range (s : Word) : 1 ≤ (lcgStep s).toNat ∧ (lcgStep s).toNat ≤ 2147483647 := by
  obtain ⟨-, hlo, hhi⟩ := stepHi_stepLo s
  have hvalue := lcgStep_eq s
  rw [stepTest_eq] at hvalue
  split at hvalue <;> omega

theorem lcgStep_ne_zero (s : Word) : lcgStep s ≠ 0#32 := by
  intro h
  have hpos := (lcgStep_range s).1
  simp [h] at hpos

theorem coerceSeed_ne_zero (seed : Word) : coerceSeed seed ≠ 0#32 := by
  unfold coerceSeed
  split
  · decide
  · assumption

theorem coerceSeed_of_ne_zero {seed : Word} (h : seed ≠ 0#32) : coerceSeed seed = seed := if_neg h

/-- A fault records a code from 1 to 4 (R83). -/
theorem causeCode_legal (c : Cause) : (causeCode c).toNat ≤ 4 ∧ causeCode c ≠ 0#4 := by
  cases c <;> decide

/-! ### The fields of a status word (R22) -/

section StatusWord

variable (live fault : Bool) (cause : BitVec 4)

theorem statusWordOf_live : (statusWordOf live fault cause).getLsbD 0 = live := by
  simp only [statusWordOf, BitVec.getLsbD_append]
  simp

theorem statusWordOf_fault : (statusWordOf live fault cause).getLsbD 1 = fault := by
  simp only [statusWordOf, BitVec.getLsbD_append]
  simp

theorem statusWordOf_gap : (statusWordOf live fault cause).extractLsb' 2 2 = 0#2 := by
  rw [statusWordOf]
  exact (BitVec.extractLsb'_append_eq_of_le (by decide)).trans
    ((BitVec.extractLsb'_append_eq_of_le (by decide)).trans BitVec.extractLsb'_append_eq_right)

/-- Below CAUSE stand four bits: LIVE, FAULT and the gap. -/
theorem extractLsb'_above_flags {n : Nat} (x : BitVec n) (start len : Nat) :
    (x ++ 0#2 ++ BitVec.ofBool fault ++ BitVec.ofBool live).extractLsb' (4 + start) len =
      x.extractLsb' start len := by
  rw [BitVec.extractLsb'_append_eq_of_le (by omega), BitVec.extractLsb'_append_eq_of_le (by omega),
    BitVec.extractLsb'_append_eq_of_le (by omega)]
  congr 1
  omega

theorem statusWordOf_cause : (statusWordOf live fault cause).extractLsb' 4 4 = cause := by
  rw [statusWordOf]
  exact (extractLsb'_above_flags live fault _ 0 4).trans BitVec.extractLsb'_append_eq_right

theorem statusWordOf_version : (statusWordOf live fault cause).extractLsb' 8 8 = 0x01#8 := by
  rw [statusWordOf]
  exact (extractLsb'_above_flags live fault _ 4 8).trans
    ((BitVec.extractLsb'_append_eq_of_le (by decide)).trans BitVec.extractLsb'_append_eq_right)

theorem statusWordOf_top : (statusWordOf live fault cause).extractLsb' 16 16 = 0#16 := by
  rw [statusWordOf]
  exact (extractLsb'_above_flags live fault _ 12 16).trans
    ((BitVec.extractLsb'_append_eq_of_le (by decide)).trans BitVec.extractLsb'_append_eq_left)

/-- What the host accepts as a status word, and as what (U10). -/
theorem readStatusWord_eq_some_iff {w : Word} :
    readStatusWord w = some (live, fault, cause) ↔
      w = statusWordOf live fault cause ∧ cause.toNat ≤ 4 ∧ (cause = 0#4 ↔ fault = false) := by
  constructor
  · intro h
    simp only [readStatusWord, Option.ite_none_right_eq_some, Option.some.injEq, Prod.mk.injEq] at h
    obtain ⟨hlegal, rfl, rfl, rfl⟩ := h
    exact hlegal
  · rintro ⟨rfl, hlegal⟩
    simp only [readStatusWord, statusWordOf_live, statusWordOf_fault, statusWordOf_cause]
    exact if_pos ⟨trivial, hlegal⟩

end StatusWord

/-! ### What a performed word does, by the status of its response -/

section Perform

variable {w : CmdWord} {s t : State}

/-- What the response's status says of a performed word (R50): HALTED changed nothing, FAULT took the fault action, and
OK left FAULT and CAUSE as they were and put no 0 in a live S. -/
theorem perform_by_status (h : perform w s = .next t) :
    (s.FAULT = true ∧ t = s.respond .halted 0#32) ∨
    (s.FAULT = false ∧ ∃ c, t = s.raiseFault c) ∨
    (t.FAULT = s.FAULT ∧ t.CAUSE = s.CAUSE ∧ (∃ d, t.pending = some ⟨.ok, d⟩) ∧
      (LiveNonzero s → LiveNonzero t)) := by
  obtain ⟨i, -, hexec⟩ | ⟨_, -, hf, rfl⟩ | ⟨_, -, hf, rfl⟩ := perform_cases h
  · obtain ⟨-, rfl⟩ | ⟨-, hf, rfl⟩ | ⟨hf, ⟨seed, -, -, rfl⟩ | ⟨_, -, -, rfl⟩ | ⟨-, -, rfl⟩ | ⟨-, -, rfl⟩ |
      ⟨-, -, rfl⟩ | ⟨-, -, rfl⟩⟩ := exec_cases hexec
    · exact .inr (.inr ⟨rfl, rfl, ⟨_, rfl⟩, id⟩) -- STATUS
    · exact .inl ⟨hf, rfl⟩ -- refused while halted
    · exact .inr (.inr ⟨rfl, rfl, ⟨_, rfl⟩, fun _ _ => coerceSeed_ne_zero seed⟩) -- LOAD creates
    · exact .inr (.inl ⟨hf, _, rfl⟩)
    · exact .inr (.inr ⟨rfl, rfl, ⟨_, rfl⟩, fun _ _ => lcgStep_ne_zero s.S⟩) -- STEP advances
    · exact .inr (.inl ⟨hf, _, rfl⟩)
    · exact .inr (.inr ⟨rfl, rfl, ⟨_, rfl⟩, fun _ => nofun⟩) -- RELEASE destroys
    · exact .inr (.inl ⟨hf, _, rfl⟩)
  · exact .inl ⟨hf, rfl⟩
  · exact .inr (.inl ⟨hf, _, rfl⟩)

theorem perform_liveNonzero (hs : LiveNonzero s) (h : perform w s = .next t) : LiveNonzero t := by
  obtain ⟨-, rfl⟩ | ⟨-, _, rfl⟩ | ⟨-, -, -, hkeep⟩ := perform_by_status h
  · exact hs
  · exact hs
  · exact hkeep hs

theorem raiseFault_causeLegal (s : State) (c : Cause) : CauseLegal (s.raiseFault c) := by
  obtain ⟨hle, hne⟩ := causeCode_legal c
  exact ⟨hle, by simp [hne]⟩

theorem perform_causeLegal (hs : CauseLegal s) (h : perform w s = .next t) : CauseLegal t := by
  obtain ⟨-, rfl⟩ | ⟨-, c, rfl⟩ | ⟨hfault, hcause, -, -⟩ := perform_by_status h
  · exact hs
  · exact raiseFault_causeLegal s c
  · simpa only [CauseLegal, hfault, hcause] using hs

/-- FAULT is never cleared by a command (R20, R90). -/
theorem perform_keeps_fault (hs : s.FAULT = true) (h : perform w s = .next t) : t.FAULT = true := by
  obtain ⟨-, rfl⟩ | ⟨hrunning, -⟩ | ⟨hfault, -⟩ := perform_by_status h
  · exact hs
  · simp [hs] at hrunning
  · rw [hfault, hs]

theorem runResponses_perform {r : Response} (hp : s.pending = none) (h : perform w s = .next t)
    (hr : t.pending = some r) : runResponses t = runResponses s ++ [r] := by
  obtain ⟨-, -, -, htaken⟩ := perform_surroundings h
  simp [runResponses, hp, hr, htaken]

theorem errorDataZero_of_append {r : Response} (hs : ErrorDataZero s)
    (hrun : runResponses t = runResponses s ++ [r]) (hr : r.status ≠ .ok → r.data = 0#32) : ErrorDataZero t := by
  intro x hx
  rw [hrun, List.mem_append, List.mem_singleton] at hx
  obtain hx | rfl := hx
  · exact hs x hx
  · exact hr

theorem faultReported_of_append {r : Response} (hs : FaultReported s)
    (hrun : runResponses t = runResponses s ++ [r])
    (hfault : t.FAULT = true ↔ s.FAULT = true ∨ r.status = .fault)
    (hhalted : r.status = .halted → s.FAULT = true) : FaultReported t := by
  obtain ⟨hreported, hrefused⟩ := hs
  constructor
  · rw [hfault, hreported, hrun]
    simp [or_and_right, exists_or]
  · intro x hx hstatus
    rw [hrun, List.mem_append, List.mem_singleton] at hx
    refine hfault.mpr (.inl ?_)
    obtain hx | rfl := hx
    · exact hrefused x hx hstatus
    · exact hhalted hstatus

theorem perform_errorDataZero (hp : s.pending = none) (hs : ErrorDataZero s) (h : perform w s = .next t) :
    ErrorDataZero t := by
  obtain ⟨-, rfl⟩ | ⟨-, _, rfl⟩ | ⟨-, -, ⟨d, hr⟩, -⟩ := perform_by_status h
  · exact errorDataZero_of_append hs (runResponses_perform hp h rfl) fun _ => rfl
  · exact errorDataZero_of_append hs (runResponses_perform hp h rfl) fun _ => rfl
  · exact errorDataZero_of_append hs (runResponses_perform hp h hr) fun hne => absurd rfl hne

theorem perform_faultReported (hp : s.pending = none) (hs : FaultReported s) (h : perform w s = .next t) :
    FaultReported t := by
  obtain ⟨hf, rfl⟩ | ⟨-, _, rfl⟩ | ⟨hfault, -, ⟨d, hr⟩, -⟩ := perform_by_status h
  · exact faultReported_of_append hs (runResponses_perform hp h rfl) (by simp) fun _ => hf
  · exact faultReported_of_append hs (runResponses_perform hp h rfl) (by simp) nofun
  · exact faultReported_of_append hs (runResponses_perform hp h hr) (by simp [hfault]) nofun

end Perform

/-! ### Every edge is a reset, a performed word, or an idle edge -/

section Edge

variable {lat : Nat} {p : PortsIn} {s t : State}

/-- What holds after a reset, after a word performed in a ready state with its latency set, and after an idle edge, holds
after every edge. -/
theorem edge_induction {P : State → Prop} (hreset : p.rst = true → P s.doReset)
    (hperform : ∀ w u, p.rst = false → s.pending = none → s.rstPrev = false → perform w s = .next u →
      P { u with rspWait := lat - 1 })
    (hidle : p.rst = false → P (s.idleEdge p.rspReady)) (h : edge lat p s = .next t) : P t := by
  obtain ⟨hr, rfl⟩ | ⟨hr, -, hready, w, u, -, hu, rfl⟩ | ⟨hr, -, rfl⟩ := edge_cases h
  · exact hreset hr
  · obtain ⟨hp, hprev⟩ := cmdReady_iff.mp hready
    exact hperform w u hr hp hprev hu
  · exact hidle hr

@[simp] theorem idleEdge_S (s : State) (ready : Bool) : (s.idleEdge ready).S = s.S := by
  obtain ⟨⟨h, -, -, -⟩, -⟩ := idleEdge_registers s ready
  exact h

@[simp] theorem idleEdge_LIVE (s : State) (ready : Bool) : (s.idleEdge ready).LIVE = s.LIVE := by
  obtain ⟨⟨-, h, -, -⟩, -⟩ := idleEdge_registers s ready
  exact h

@[simp] theorem idleEdge_FAULT (s : State) (ready : Bool) : (s.idleEdge ready).FAULT = s.FAULT := by
  obtain ⟨⟨-, -, h, -⟩, -⟩ := idleEdge_registers s ready
  exact h

@[simp] theorem idleEdge_CAUSE (s : State) (ready : Bool) : (s.idleEdge ready).CAUSE = s.CAUSE := by
  obtain ⟨⟨-, -, -, h⟩, -⟩ := idleEdge_registers s ready
  exact h

@[simp] theorem idleEdge_rstPrev (s : State) (ready : Bool) : (s.idleEdge ready).rstPrev = false := by
  obtain ⟨-, -, -, h⟩ := idleEdge_registers s ready
  exact h

/-- Handing over the pending response moves it within the run's responses. -/
@[simp] theorem runResponses_idleEdge (s : State) (ready : Bool) :
    runResponses (s.idleEdge ready) = runResponses s := by
  obtain ⟨-, h⟩ | ⟨-, -, h⟩ | ⟨-, -, h⟩ := idleEdge_cases s ready <;> simp [h, runResponses]

@[simp] theorem runResponses_doReset (s : State) : runResponses s.doReset = [] := rfl

theorem edge_liveNonzero (hs : LiveNonzero s) (h : edge lat p s = .next t) : LiveNonzero t := by
  refine edge_induction (P := LiveNonzero) ?_ ?_ ?_ h
  · exact fun _ => nofun
  · exact fun w u _ _ _ hu => perform_liveNonzero (t := u) hs hu
  · exact fun _ => by simpa [LiveNonzero] using hs

theorem edge_causeLegal (hs : CauseLegal s) (h : edge lat p s = .next t) : CauseLegal t := by
  refine edge_induction (P := CauseLegal) ?_ ?_ ?_ h
  · exact fun _ => by simp [CauseLegal]
  · exact fun w u _ _ _ hu => perform_causeLegal (t := u) hs hu
  · exact fun _ => by simpa [CauseLegal] using hs

theorem edge_errorDataZero (hs : ErrorDataZero s) (h : edge lat p s = .next t) : ErrorDataZero t := by
  refine edge_induction (P := ErrorDataZero) ?_ ?_ ?_ h
  · exact fun _ => by simp [ErrorDataZero]
  · exact fun w u _ hp _ hu => perform_errorDataZero (t := u) hp hs hu
  · exact fun _ => by simpa [ErrorDataZero] using hs

theorem edge_faultReported (hs : FaultReported s) (h : edge lat p s = .next t) : FaultReported t := by
  refine edge_induction (P := FaultReported) ?_ ?_ ?_ h
  · exact fun _ => by simp [FaultReported]
  · exact fun w u _ hp _ hu => perform_faultReported (t := u) hp hs hu
  · exact fun _ => by simpa [FaultReported] using hs

/-- The countdown ends before the response is taken, and it never rises. -/
theorem idleEdge_rspWait (hs : HandshakeLegal lat s) (ready : Bool) :
    ((s.idleEdge ready).pending = none → (s.idleEdge ready).rspWait = 0) ∧ (s.idleEdge ready).rspWait ≤ lat - 1 := by
  obtain ⟨hnone, hle, -⟩ := hs
  obtain ⟨-, h⟩ | ⟨-, -, h⟩ | ⟨-, -, h⟩ := idleEdge_cases s ready <;> simp only [h]
  · exact ⟨fun hp => by rw [hnone hp], by omega⟩
  · exact ⟨fun _ => trivial, Nat.zero_le _⟩
  · exact ⟨hnone, hle⟩

theorem edge_handshakeLegal (hs : HandshakeLegal lat s) (h : edge lat p s = .next t) : HandshakeLegal lat t := by
  refine edge_induction (P := HandshakeLegal lat) ?_ ?_ ?_ h
  · exact fun _ => by simp [HandshakeLegal]
  · intro w u _ _ hprev hu
    obtain ⟨r, hr⟩ := perform_pending hu
    obtain ⟨-, hkept, -, -⟩ := perform_surroundings hu
    exact ⟨fun hnone => by simp [hr] at hnone, le_rfl, fun hset => by simp [← hkept, hprev] at hset⟩
  · intro _
    obtain ⟨hnone, hle⟩ := idleEdge_rspWait hs p.rspReady
    exact ⟨hnone, hle, fun hset => by simp at hset⟩

theorem edge_unitInvariant (hs : UnitInvariant lat s) (h : edge lat p s = .next t) : UnitInvariant lat t := by
  obtain ⟨hlive, hcause, hdata, hfault, hhandshake⟩ := hs
  exact ⟨edge_liveNonzero hlive h, edge_causeLegal hcause h, edge_errorDataZero hdata h, edge_faultReported hfault h,
    edge_handshakeLegal hhandshake h⟩

/-- FAULT is a level: it stays 1 over every other edge, and a reset edge clears it (R20, R29). -/
theorem edge_fault_iff (hs : s.FAULT = true) (h : edge lat p s = .next t) : t.FAULT = true ↔ p.rst = false := by
  refine edge_induction (P := fun t => t.FAULT = true ↔ p.rst = false) ?_ ?_ ?_ h
  · exact fun hr => by simp [hr]
  · exact fun w u hr _ _ hu => by simp [hr, perform_keeps_fault hs hu]
  · exact fun hr => by simp [hr, hs]

end Edge

/-! ### O43: the unit's invariant -/

/-- Settles O43: every edge keeps each conjunct, and using up the host's sample touches none of them. -/
theorem stepKeepsInvariant : Obligations.StepKeepsInvariant := by
  intro s t hs h
  exact edge_unitInvariant (s := dropInput s) hs h

/-! ### O44: an S held while LIVE = 0 never shows -/

section HiddenS

variable {lat : Nat} {p : PortsIn} {s t u v u' v' : State}

/-- What two equal observations have in common: the responses taken, the status fields, and S while live (R111). -/
theorem observation_eq_iff :
    observation s = observation t ↔
      s.taken = t.taken ∧ s.LIVE = t.LIVE ∧ s.FAULT = t.FAULT ∧ s.CAUSE = t.CAUSE ∧
        (s.LIVE = true → s.S = t.S) := by
  cases hs : s.LIVE <;> cases ht : t.LIVE <;> simp [observation, hs, ht]

/-! Each operation on the state keeps two states the same but for a hidden S. -/

theorem sameButHiddenS_respond (h : SameButHiddenS s t) (st : RspStatus) (d : Word) :
    SameButHiddenS (s.respond st d) (t.respond st d) := by
  obtain ⟨hobs, -, hwait, hprev, hinputs⟩ := h
  exact ⟨hobs, rfl, hwait, hprev, hinputs⟩

theorem sameButHiddenS_raiseFault (h : SameButHiddenS s t) (c : Cause) :
    SameButHiddenS (s.raiseFault c) (t.raiseFault c) := by
  obtain ⟨hobs, -, hwait, hprev, hinputs⟩ := h
  obtain ⟨htaken, hlive, -, -, hS⟩ := observation_eq_iff.mp hobs
  exact ⟨observation_eq_iff.mpr ⟨htaken, hlive, rfl, rfl, hS⟩, rfl, hwait, hprev, hinputs⟩

/-- S may be written with different values where LIVE is 0 afterwards. -/
theorem sameButHiddenS_write (h : SameButHiddenS s t) {a b : Word} {live live' : Bool} {m n : Nat}
    (hlive : live = live') (hab : live = true → a = b) :
    SameButHiddenS { s with S := a, LIVE := live, freeCount := m } { t with S := b, LIVE := live', freeCount := n } := by
  obtain ⟨hobs, hpending, hwait, hprev, hinputs⟩ := h
  obtain ⟨htaken, -, hfault, hcause, -⟩ := observation_eq_iff.mp hobs
  exact ⟨observation_eq_iff.mpr ⟨htaken, hlive, hfault, hcause, hab⟩, hpending, hwait, hprev, hinputs⟩

theorem sameButHiddenS_ite {c c' : Prop} [Decidable c] [Decidable c'] (hc : c ↔ c') (hthen : c → SameButHiddenS u v)
    (helse : SameButHiddenS u' v') : SameButHiddenS (if c then u else u') (if c' then v else v') := by
  by_cases h : c
  · rw [if_pos h, if_pos (hc.mp h)]
    exact hthen h
  · rw [if_neg h, if_neg (mt hc.mpr h)]
    exact helse

theorem sameButHiddenS_takeResponse (h : SameButHiddenS s t) : SameButHiddenS s.takeResponse t.takeResponse := by
  obtain ⟨hobs, hpending, -, hprev, hinputs⟩ := h
  obtain ⟨htaken, hregisters⟩ := observation_eq_iff.mp hobs
  exact ⟨observation_eq_iff.mpr ⟨by simp [htaken, hpending], hregisters⟩, rfl, rfl, hprev, hinputs⟩

theorem sameButHiddenS_doReset (h : SameButHiddenS s t) : SameButHiddenS s.doReset t.doReset := by
  obtain ⟨-, -, -, -, hinputs⟩ := h
  exact ⟨rfl, rfl, rfl, rfl, hinputs⟩

theorem sameButHiddenS_dropInput (h : SameButHiddenS s t) : SameButHiddenS (dropInput s) (dropInput t) := by
  obtain ⟨hobs, hpending, hwait, hprev, hinputs⟩ := h
  exact ⟨hobs, hpending, hwait, hprev, congrArg List.tail hinputs⟩

theorem sameButHiddenS_idleEdge (h : SameButHiddenS s t) (ready : Bool) :
    SameButHiddenS (s.idleEdge ready) (t.idleEdge ready) := by
  obtain ⟨hobs, hpending, hwait, -, hinputs⟩ := h
  have hcleared : SameButHiddenS { s with rstPrev := false } { t with rstPrev := false } :=
    ⟨hobs, hpending, hwait, rfl, hinputs⟩
  have hcounted : SameButHiddenS { s with rstPrev := false, rspWait := s.rspWait - 1 }
      { t with rstPrev := false, rspWait := t.rspWait - 1 } :=
    ⟨hobs, hpending, congrArg (· - 1) hwait, rfl, hinputs⟩
  exact sameButHiddenS_ite (by rw [hwait])
    (fun _ => sameButHiddenS_ite Iff.rfl (fun _ => sameButHiddenS_takeResponse hcleared) hcleared) hcounted

theorem sameButHiddenS_unlessHalted (h : SameButHiddenS s t) (hu : SameButHiddenS u v) :
    SameButHiddenS (s.unlessHalted u) (t.unlessHalted v) := by
  obtain ⟨-, -, hfault, -⟩ := observation_eq_iff.mp h.1
  exact sameButHiddenS_ite (by rw [hfault]) (fun _ => sameButHiddenS_respond h _ _) hu

/-- The LIVE check of a command goes the same way in both states, and where it finds LIVE = 1, S is the same too. -/
theorem sameButHiddenS_ite_live (h : SameButHiddenS s t) (hthen : s.S = t.S → SameButHiddenS u v)
    (helse : SameButHiddenS u' v') :
    SameButHiddenS (if s.LIVE then u else u') (if t.LIVE then v else v') := by
  obtain ⟨-, hlive, -, -, hS⟩ := observation_eq_iff.mp h.1
  exact sameButHiddenS_ite (by rw [hlive]) (fun hl => hthen (hS hl)) helse

theorem statusWord_eq_of_sameButHiddenS (h : SameButHiddenS s t) : s.statusWord = t.statusWord := by
  obtain ⟨-, hlive, hfault, hcause, -⟩ := observation_eq_iff.mp h.1
  rw [State.statusWord, State.statusWord, hlive, hfault, hcause]

theorem exec_sameOutcome (i : Instr) (h : SameButHiddenS s t) : SameOutcome (exec i s) (exec i t) := by
  cases i with
  | load seed =>
    refine sameButHiddenS_unlessHalted h (sameButHiddenS_ite_live h (fun _ => sameButHiddenS_raiseFault h _) ?_)
    exact sameButHiddenS_respond (sameButHiddenS_write h rfl fun _ => rfl) _ _
  | step =>
    refine sameButHiddenS_unlessHalted h (sameButHiddenS_ite_live h (fun hS => ?_) (sameButHiddenS_raiseFault h _))
    obtain ⟨-, hlive, -⟩ := observation_eq_iff.mp h.1
    rw [hS]
    exact sameButHiddenS_respond (sameButHiddenS_write h hlive fun _ => rfl) _ _
  | release =>
    refine sameButHiddenS_unlessHalted h (sameButHiddenS_ite_live h (fun _ => ?_) (sameButHiddenS_raiseFault h _))
    exact sameButHiddenS_respond (sameButHiddenS_write (live := false) h rfl nofun) _ _
  | status =>
    change SameButHiddenS (s.respond .ok s.statusWord) (t.respond .ok t.statusWord)
    rw [statusWord_eq_of_sameButHiddenS h]
    exact sameButHiddenS_respond h _ _

theorem perform_sameOutcome (w : CmdWord) (h : SameButHiddenS s t) : SameOutcome (perform w s) (perform w t) := by
  unfold perform
  cases decode w with
  | command i => exact exec_sameOutcome i h
  | illegal _ => exact sameButHiddenS_unlessHalted h (sameButHiddenS_raiseFault h _)

theorem accept_sameOutcome (h : SameButHiddenS s t) : SameOutcome (accept lat p s) (accept lat p t) := by
  unfold accept
  cases sampledCommand p with
  | none => exact rfl
  | some w =>
    obtain ⟨u, hu⟩ := perform_next w s
    obtain ⟨v, hv⟩ := perform_next w t
    have huv := perform_sameOutcome w h
    rw [hu, hv] at huv
    obtain ⟨hobs, hpending, -, hprev, hinputs⟩ := huv
    simp only [hu, hv]
    exact ⟨hobs, hpending, rfl, hprev, hinputs⟩

theorem edge_sameOutcome (h : SameButHiddenS s t) : SameOutcome (edge lat p s) (edge lat p t) := by
  have hready : s.cmdReady = t.cmdReady := by
    obtain ⟨-, hpending, -, hprev, -⟩ := h
    simp [State.cmdReady, hpending, hprev]
  unfold edge
  rw [hready]
  split
  · exact sameButHiddenS_doReset h
  · split
    · exact accept_sameOutcome h
    · exact sameButHiddenS_idleEdge h _

end HiddenS

/-- Settles O44: both states drive the same ports, and an edge reads S only behind the LIVE check. -/
theorem hiddenGeneratorNeverShows : Obligations.HiddenGeneratorNeverShows := by
  intro s t h
  obtain ⟨-, -, -, -, hinputs⟩ := id h
  have hports : drivenPorts s = drivenPorts t := congrArg (·.headD idlePorts) hinputs
  rw [step_eq_edge, step_eq_edge, hports]
  exact edge_sameOutcome (sameButHiddenS_dropInput h)

/-! ### O25: the frame of the four commands -/

/-- Settles O25, case by case of what a command can do (`exec_cases`); the surroundings are kept as by every performed
word. -/
theorem commandFrame : Obligations.CommandFrame := by
  intro i s t h
  refine ⟨perform_surroundings ((perform_encode i s).trans h), ?_⟩
  obtain ⟨-, rfl⟩ | ⟨-, -, rfl⟩ | ⟨hf, ⟨seed, rfl, hl, rfl⟩ | ⟨_, rfl, -, rfl⟩ | ⟨rfl, hl, rfl⟩ | ⟨rfl, -, rfl⟩ |
    ⟨rfl, hl, rfl⟩ | ⟨rfl, -, rfl⟩⟩ := exec_cases h
  · simp -- STATUS
  · simp -- refused while halted
  · simp [hf, hl, coerceSeed] -- LOAD creates
  · simp [hf] -- LOAD faults
  · simp [hf, hl] -- STEP advances
  · simp [hf] -- STEP faults
  · simp [hf, hl] -- RELEASE destroys
  · simp [hf] -- RELEASE faults

/-! ### O26, O27, O29: the registers over edges and runs -/

/-- A STEP that advances (R75). -/
theorem exec_step_of_live {s : State} (hf : s.FAULT = false) (hl : s.LIVE = true) :
    exec .step s = .next (State.respond { s with S := lcgStep s.S } .ok (lcgStep s.S)) := by
  simp [exec, execStep, unlessHalted_of_running hf, hl]

/-- Settles O26: a live S is only ever written with a coerced seed or a value of Step. -/
theorem liveGeneratorIsNeverZero : Obligations.LiveGeneratorIsNeverZero := by
  refine ⟨fun _ _ _ _ => edge_liveNonzero, fun v hv => ?_, fun s t hf hl h => ?_⟩
  · have hload : perform (encode (.load v)) State.reset =
        .next (State.respond { State.reset with S := coerceSeed v, LIVE := true } .ok 0#32) :=
      perform_encode (.load v) State.reset
    exact ⟨_, transact_of_perform hload, rfl, coerceSeed_of_ne_zero hv⟩
  · rw [exec_step_of_live hf hl] at h
    cases h
    exact lcgStep_range s.S

/-- Settles O27, with a run from reset for each combination: no command, STEP while not live, LOAD, and LOAD twice. -/
theorem statusFieldsStayLegal : Obligations.StatusFieldsStayLegal := by
  refine ⟨by decide, fun _ _ _ _ => edge_causeLegal, fun live fault => ?_⟩
  match live, fault with
  | false, false => exact ⟨[], _, rfl, rfl, rfl⟩
  | false, true => exact ⟨[encode .step], _, rfl, rfl, rfl⟩
  | true, false => exact ⟨[encode (.load 1#32)], _, rfl, rfl, rfl⟩
  | true, true => exact ⟨[encode (.load 1#32), encode (.load 1#32)], _, rfl, rfl, rfl⟩

/-- Settles O29: the port is the FAULT register, which every edge but a reset edge keeps at 1. -/
theorem faultPortIsLevelUntilReset : Obligations.FaultPortIsLevelUntilReset :=
  ⟨fun _ _ => Iff.rfl, fun _ _ _ _ _ _ => edge_fault_iff⟩

/-! ### O20, O28: the status word and the host's reading -/

/-- Settles O20, field by field. -/
theorem statusWordLayout : Obligations.StatusWordLayout := fun _ =>
  ⟨statusWordOf_live .., statusWordOf_fault .., statusWordOf_gap .., statusWordOf_cause .., statusWordOf_version ..,
    statusWordOf_top ..⟩

/-- Settles O28: the status codes one by one, and the status word by what the host accepts. -/
theorem hostReadsBackReports : Obligations.HostReadsBackReports := by
  refine ⟨fun st d => ?_, fun _ => rfl, fun s hs => ?_, fun w live fault cause => ?_⟩
  · cases st <;> rfl
  · exact (readStatusWord_eq_some_iff ..).mpr ⟨rfl, hs⟩
  · exact (readStatusWord_eq_some_iff ..).mp

/-! ### O30, O42: right after reset -/

section Reset

variable {s : State}

/-- The status word of a unit that is neither live nor halted (R28). -/
theorem statusWord_of_cleared (hl : s.LIVE = false) (hf : s.FAULT = false) (hc : s.CAUSE = 0#4) :
    s.statusWord = 0x00000100#32 := by
  rw [State.statusWord, hl, hf, hc]
  decide

theorem portsOut_rspValid_of_pending_none (h : s.pending = none) (rst : Bool) : (s.portsOut rst).rspValid = false := by
  cases rst <;> simp [State.portsOut, State.validResponse, h]

end Reset

/-- Settles O30: both states have the registers cleared and nothing pending, and the status word and the ports follow. -/
theorem resetLeavesListedValues : Obligations.ResetLeavesListedValues :=
  ⟨fun _ _ s hp => ⟨s.doReset, edge_of_reset hp, rfl, rfl, rfl, statusWord_of_cleared rfl rfl rfl, rfl,
      fun rst => ⟨rfl, portsOut_rspValid_of_pending_none rfl rst⟩⟩,
    rfl, rfl, rfl, statusWord_of_cleared rfl rfl rfl, rfl,
      fun rst => ⟨rfl, portsOut_rspValid_of_pending_none rfl rst⟩⟩

/-- Settles O42: at reset there is no response in the run, nothing to wait for, and every status field is 0. -/
theorem invariantHoldsAtReset : Obligations.InvariantHoldsAtReset :=
  fun _ => ⟨nofun, by decide, by decide, by decide, fun _ => rfl, Nat.zero_le _, fun _ => ⟨rfl, rfl, rfl, rfl, rfl⟩⟩

/-! ### O49: a platform's units -/

/-- Settles O49: the platform replaces the state at one position and no other. -/
theorem unitsAreIndependent : Obligations.UnitsAreIndependent := by
  intro P P' k h
  obtain ⟨t, hstep, hlen, hk, hothers⟩ := afterUnit_next k.isLt h
  exact ⟨hlen, ⟨t, hstep, hk⟩, hothers⟩

end Sys2Proof.Proofs


namespace Sys2Proof.Proofs

open Sys2Proof Sys2Proof.Machine Sys2Proof.Laws

/-! ### O46: the responses of a run without time -/

section TransactionRun

variable {s t : State} {w : CmdWord} {ws : List CmdWord}

/-- A command without time is its performance followed by the taking of its response, and nothing else (R111). -/
theorem transact_cases (h : transact w s = .next t) : ∃ u, perform w s = .next u ∧ t = u.takeResponse := by
  obtain ⟨u, hu⟩ := perform_next w s
  rw [transact_of_perform hu] at h
  cases h
  exact ⟨u, hu, rfl⟩

theorem transactAll_cons_next (h : transactAll (w :: ws) s = .next t) :
    ∃ u, transact w s = .next u ∧ transactAll ws u = .next t := by
  obtain ⟨u, hu⟩ := perform_next w s
  have htransact := transact_of_perform hu
  rw [transactAll_cons htransact] at h
  exact ⟨_, htransact, h⟩

/-- What one command without time keeps, a sequence of them keeps. -/
theorem transactAll_keeps {P : State → Prop} (hkeep : ∀ {w s t}, P s → transact w s = .next t → P t) (hs : P s)
    (h : transactAll ws s = .next t) : P t := by
  induction ws generalizing s with
  | nil =>
    cases h
    exact hs
  | cons w ws ih =>
    obtain ⟨u, hu, hrun⟩ := transactAll_cons_next h
    exact ih (hkeep hs hu) hrun

/-- Taking the pending response moves it within the run's responses. -/
@[simp] theorem runResponses_takeResponse (s : State) : runResponses s.takeResponse = runResponses s := by
  simp [runResponses]

theorem runResponses_of_pending_none (h : s.pending = none) : runResponses s = s.taken := by
  simp [runResponses, h]

/-- Exactly one response is taken per command (R37). -/
theorem transact_taken_length (h : transact w s = .next t) : t.taken.length = s.taken.length + 1 := by
  obtain ⟨u, hu, rfl⟩ := transact_cases h
  obtain ⟨r, hr⟩ := perform_pending hu
  obtain ⟨-, -, -, htaken⟩ := perform_surroundings hu
  simp [hr, htaken]

theorem transactAll_taken_length (h : transactAll ws s = .next t) :
    t.taken.length = s.taken.length + ws.length := by
  induction ws generalizing s with
  | nil =>
    cases h
    rfl
  | cons w ws ih =>
    obtain ⟨u, hu, hrun⟩ := transactAll_cons_next h
    rw [ih hrun, transact_taken_length hu, List.length_cons]
    omega

/-- Between commands without time nothing is pending, and FAULT agrees with the responses of the run. -/
def SettledReported (s : State) : Prop :=
  s.pending = none ∧ FaultReported s

theorem transact_settledReported (hs : SettledReported s) (h : transact w s = .next t) : SettledReported t := by
  obtain ⟨hp, hreported⟩ := hs
  obtain ⟨u, hu, rfl⟩ := transact_cases h
  have hu' : FaultReported u := perform_faultReported hp hreported hu
  exact ⟨rfl, by simpa only [FaultReported, runResponses_takeResponse, takeResponse_FAULT] using hu'⟩

theorem reset_settledReported : SettledReported State.reset :=
  ⟨rfl, by decide⟩

/-- A HALTED response needs FAULT = 1, which needs a FAULT response, so either kind shows FAULT = 1 (R111). -/
theorem faulted_iff_of_settledReported (hs : SettledReported s) : (observation s).Faulted ↔ s.FAULT = true := by
  obtain ⟨hp, hreported, hrefused⟩ := hs
  rw [runResponses_of_pending_none hp] at hreported hrefused
  constructor
  · rintro ⟨r, hr, hne⟩
    cases hstatus : r.status with
    | ok => exact absurd hstatus hne
    | fault => exact hreported.mpr ⟨r, hr, hstatus⟩
    | halted => exact hrefused r hr hstatus
  · intro hf
    obtain ⟨r, hr, hstatus⟩ := hreported.mp hf
    exact ⟨r, hr, by simp [hstatus]⟩

end TransactionRun

/-- Settles O46: each command adds one response, and it keeps FAULT in agreement with the responses taken. -/
theorem faultedRunEndsHalted : Obligations.FaultedRunEndsHalted := by
  intro ws t h
  refine ⟨?_, faulted_iff_of_settledReported ?_⟩
  · simpa using transactAll_taken_length h
  · exact transactAll_keeps transact_settledReported reset_settledReported h

end Sys2Proof.Proofs


namespace Sys2Proof.Proofs

open Sys2Proof Sys2Proof.Machine Sys2Proof.Laws

/-! ### O1, O2, O3: decoding (R57) -/

section Decode

variable {c : Command} {w : CmdWord} {i j : Instr} {op : BitVec 4} {d : Word}

/-- Behind the test of OP, a command without operand is read only from its own fields (R48). -/
theorem fields_of_withoutOperand (h : withoutOperand i op d = .command j) (hop : op = opcodeOf i)
    (hoperand : operandOf i = 0#32) : (⟨op, d⟩ : Command) = ⟨opcodeOf j, operandOf j⟩ := by
  unfold withoutOperand at h
  split at h <;> cases h
  rw [hop, hoperand, ‹d = 0#32›]

/-- The decoder reads a command only from that command's own fields (R46, R48). -/
theorem fields_of_decodeFields (h : decodeFields c = .command i) : c = ⟨opcodeOf i, operandOf i⟩ := by
  obtain ⟨op, d⟩ := c
  unfold decodeFields at h
  split_ifs at h with hload hstep hrelease hstatus
  · cases h
    exact congrArg (Command.mk · d) hload
  · exact fields_of_withoutOperand h hstep rfl
  · exact fields_of_withoutOperand h hrelease rfl
  · exact fields_of_withoutOperand h hstatus rfl

theorem decode_eq_command_iff : decode w = .command i ↔ w = encode i := by
  constructor
  · intro h
    calc w = wordOf (fieldsOf w) := (wordOf_fieldsOf w).symm
      _ = encode i := congrArg wordOf (fields_of_decodeFields h)
  · rintro rfl
    exact decode_encode i

/-- A word of OP = 0x1 is the word of a LOAD of its DATA field. -/
theorem encode_load_of_op (h : w.extractLsb' 32 4 = 0x1#4) : encode (.load (w.extractLsb' 0 32)) = w := by
  calc encode (.load (w.extractLsb' 0 32)) = wordOf ⟨w.extractLsb' 32 4, w.extractLsb' 0 32⟩ := by rw [h]; rfl
    _ = w := wordOf_fieldsOf w

theorem encode_load_op (seed : Word) : (encode (.load seed)).extractLsb' 32 4 = 0x1#4 :=
  congrArg Command.op (fieldsOf_wordOf ⟨0x1#4, seed⟩)

end Decode

/-- Settles O1: the decoder reads a command only from that command's fields, and the fields make up the word. -/
theorem decodeIsInverseOfEncode : Obligations.DecodeIsInverseOfEncode :=
  fun _ _ => decode_eq_command_iff

/-- Settles O2: each pattern is a command's word, and a word that decodes to a command fits its pattern. -/
theorem decodeFollowsPatterns : Obligations.DecodeFollowsPatterns := by
  intro w
  refine ⟨fun hop => decode_eq_command_iff.mpr (encode_load_of_op hop).symm, fun h => decode_eq_command_iff.mpr h,
    fun h => decode_eq_command_iff.mpr h, fun h => decode_eq_command_iff.mpr h, fun hop hstep hrelease hstatus => ?_⟩
  cases hdecode : decode w with
  | illegal why => exact ⟨why, rfl⟩
  | command i =>
    have hw := decode_eq_command_iff.mp hdecode
    cases i with
    | load seed => exact absurd (hw ▸ encode_load_op seed) hop
    | step => exact absurd hw hstep
    | release => exact absurd hw hrelease
    | status => exact absurd hw hstatus

/-- Settles O3, word by word. -/
theorem writtenWordsDecode : Obligations.WrittenWordsDecode :=
  ⟨decode_encode (.load 5#32), decode_encode .step, decode_encode .release, decode_encode .status, by decide,
    by decide, by decide⟩

/-! ### O24: the response data -/

/-- Settles O24, case by case of what performing a word can do (`perform_cases`, `exec_cases`). -/
theorem responseDataByOutcome : Obligations.ResponseDataByOutcome := by
  intro w s t h
  obtain ⟨i, hw, hexec⟩ | ⟨_, hw, -, rfl⟩ | ⟨_, hw, -, rfl⟩ := perform_cases h
  · rw [hw]
    obtain ⟨rfl, rfl⟩ | ⟨hi, -, rfl⟩ | ⟨-, ⟨_, rfl, -, rfl⟩ | ⟨_, rfl, -, rfl⟩ | ⟨rfl, -, rfl⟩ | ⟨rfl, -, rfl⟩ |
      ⟨rfl, -, rfl⟩ | ⟨rfl, -, rfl⟩⟩ := exec_cases hexec
    · exact ⟨_, rfl, by simp⟩ -- STATUS
    · exact ⟨_, rfl, by simp [hi]⟩ -- refused while halted
    · exact ⟨_, rfl, by simp⟩ -- LOAD creates
    · exact ⟨_, rfl, by simp⟩ -- LOAD faults
    · exact ⟨_, rfl, by simp⟩ -- STEP advances
    · exact ⟨_, rfl, by simp⟩ -- STEP faults
    · exact ⟨_, rfl, by simp⟩ -- RELEASE destroys
    · exact ⟨_, rfl, by simp⟩ -- RELEASE faults
  · exact ⟨_, rfl, by simp [hw]⟩
  · exact ⟨_, rfl, by simp [hw]⟩

/-! ### O33, O34, O35: the command port -/

section CommandPort

variable {lat : Nat} {p : PortsIn} {s t u : State} {w : CmdWord}

/-- Every edge records the `rst` it saw (R53). -/
theorem edge_rstPrev (h : edge lat p s = .next t) : t.rstPrev = p.rst := by
  refine edge_induction (P := fun t => t.rstPrev = p.rst) ?_ ?_ ?_ h
  · exact fun hr => by simp [hr]
  · intro w u hr _ hprev hu
    obtain ⟨-, hkept, -, -⟩ := perform_surroundings hu
    exact hkept.symm.trans (hprev.trans hr.symm)
  · exact fun hr => by simp [hr]

/-- An accepting edge performs the sampled word and sets the latency of its response (R53, R54). -/
theorem edge_of_accepting (hrst : p.rst = false) (hvalid : p.cmdValid = true) (hready : s.cmdReady = true)
    (hw : sampledCommand p = some w) (hu : perform w s = .next u) :
    edge lat p s = .next { u with rspWait := lat - 1 } := by
  simp [edge, accept, onNext, hrst, hvalid, hready, hw, hu]

/-- An edge that accepts no command reads no port but `rst` and `rsp_ready` (R53, R54, R110). -/
theorem edge_of_not_accepting (hnot : ¬(p.rst = false ∧ p.cmdValid = true ∧ s.cmdReady = true)) :
    edge lat p s = .next (if p.rst then s.doReset else s.idleEdge p.rspReady) := by
  cases hrst : p.rst with
  | true => exact edge_of_reset hrst
  | false =>
    have hidle : ¬(p.cmdValid = true ∧ s.cmdReady = true) := fun h => hnot ⟨hrst, h⟩
    simp [edge, hrst, hidle]

end CommandPort

/-- Settles O33: `rstPrev` after an edge is that edge's `rst`, and only an accepting edge reads the command ports. -/
theorem commandHandshake : Obligations.CommandHandshake := by
  intro lat p s
  refine ⟨fun t h => ?_, fun w hrst hvalid hready hw => ?_, fun op data hnot => ?_⟩
  · rw [cmdReady_iff, edge_rstPrev h]
  · obtain ⟨u, hu⟩ := perform_next w s
    exact ⟨u, hu, edge_of_accepting hrst hvalid hready hw hu⟩
  · exact (edge_of_not_accepting (p := { p with cmdOp := op, cmdData := data }) hnot).trans
      (edge_of_not_accepting hnot).symm

/-- Settles O34: the step is an accepting edge with the head of the host's list. -/
theorem stepRunsDecodedInstruction : Obligations.StepRunsDecodedInstruction := by
  intro s p rest w i hinputs hrst hvalid hpending hprev hw hdecode
  have hports : drivenPorts s = p := by simp [drivenPorts, hinputs]
  have hdrop : dropInput s = { s with inputs := rest } := by simp [dropInput, hinputs]
  obtain ⟨t, ht⟩ := exec_next i { s with inputs := rest }
  have hperform : perform w { s with inputs := rest } = .next t := by
    rw [decode_eq_command_iff.mp hdecode, perform_encode, ht]
  refine ⟨t, ht, ?_⟩
  rw [step_eq_edge, hports, hdrop]
  exact edge_of_accepting hrst hvalid (cmdReady_iff.mpr ⟨hpending, hprev⟩) hw hperform

theorem decodeTableWord_eq_some {nbits w : Nat} {i : Instr} (h : decodeTableWord nbits w = some i) :
    ∃ cmd, tableWord nbits w = some cmd ∧ decode cmd = .command i := by
  unfold decodeTableWord at h
  split at h
  · cases h
  · split at h <;> cases h
    exact ⟨_, ‹_›, ‹_›⟩

/-- Settles O35: a placed word is the head of the host's list in a ready state, so O34 applies. -/
theorem placedWordRuns : Obligations.PlacedWordRuns := by
  intro s nbits w i h
  obtain ⟨cmd, htable, hdecode⟩ := decodeTableWord_eq_some h
  rw [State.withFetchWord, htable]
  exact stepRunsDecodedInstruction (offerNext s (some cmd)) (offerPorts (some cmd)) s.inputs cmd i rfl rfl rfl rfl rfl
    (sampledCommand_offerPorts cmd) hdecode

/-! ### O36, O37: the response port -/

section ResponsePort

variable {lat : Nat} {p : PortsIn} {ps : List PortsIn} {s t : State} {r : Response}

theorem validResponse_eq_some_iff : s.validResponse = some r ↔ s.rspWait = 0 ∧ s.pending = some r := by
  simp [State.validResponse]

/-- An accepting edge leaves a response pending with its latency ahead of it (R37, R54). -/
theorem edge_accepting_pending (hrst : p.rst = false) (hvalid : p.cmdValid = true) (hready : s.cmdReady = true)
    (h : edge lat p s = .next t) : (∃ r, t.pending = some r) ∧ t.rspWait = lat - 1 := by
  obtain ⟨hreset, -⟩ | ⟨-, -, -, w, u, -, hu, rfl⟩ | ⟨-, hidle, -⟩ := edge_cases h
  · simp [hrst] at hreset
  · exact ⟨perform_pending (t := u) hu, rfl⟩
  · exact absurd ⟨hvalid, hready⟩ hidle

/-- While a response waits, edges without reset only count its latency down, whatever the host drives (R54, R108). -/
theorem clockRun_of_waiting (hps : ∀ q ∈ ps, q.rst = false) (hr : t.pending = some r) (hprev : t.rstPrev = false)
    (hlen : ps.length ≤ t.rspWait) :
    clockRun lat ps t = .next (withHandshake (t.rspWait - ps.length) false t) := by
  induction ps generalizing t with
  | nil =>
    rw [withHandshake, ← hprev]
    rfl
  | cons p ps ih =>
    rw [List.length_cons] at hlen ⊢
    obtain ⟨-, hidle⟩ | ⟨hwait, -⟩ | ⟨hwait, -⟩ := idleEdge_cases t p.rspReady
    · have hedge : edge lat p t = .next (withHandshake (t.rspWait - 1) false t) := by
        rw [edge_of_pending (hps p List.mem_cons_self) hr, hidle]
        rfl
      have hleft : ps.length ≤ t.rspWait - 1 := by omega
      rw [clockRun_cons hedge, ih (t := withHandshake (t.rspWait - 1) false t)
        (fun q hq => hps q (List.mem_cons_of_mem p hq)) hr rfl hleft, Nat.add_comm, Nat.sub_add_eq]
      rfl
    · omega
    · omega

/-- A response that is not valid is not taken (R54). -/
theorem idleEdge_taken_of_not_valid (h : s.validResponse = none) (ready : Bool) :
    (s.idleEdge ready).taken = s.taken := by
  obtain ⟨-, hidle⟩ | ⟨hwait, -, hidle⟩ | ⟨-, -, hidle⟩ := idleEdge_cases s ready <;> rw [hidle]
  have hnone : s.pending = none := by simpa [State.validResponse, hwait] using h
  simp [hnone]

/-- A valid response is handed over where the host is ready for it (R54). -/
theorem idleEdge_of_valid_ready (h : s.validResponse = some r) :
    s.idleEdge true = { s with rstPrev := false, rspWait := 0, pending := none, taken := s.taken ++ [r] } := by
  obtain ⟨hwait, hr⟩ := validResponse_eq_some_iff.mp h
  simp [State.idleEdge, State.takeResponse, hwait, hr]

/-- A valid response is held where the host is not ready for it (R54, R109). -/
theorem idleEdge_of_valid_not_ready (h : s.validResponse = some r) :
    s.idleEdge false = { s with rstPrev := false } := by
  obtain ⟨hwait, -⟩ := validResponse_eq_some_iff.mp h
  simp [State.idleEdge, hwait]

end ResponsePort

/-- Settles O36: the accepting edge sets `lat − 1` edges to wait, and every further edge counts one of them down. -/
theorem responseLatency : Obligations.ResponseLatency := by
  intro lat p s t ps hlat hrst hvalid hready h hps hlen
  obtain ⟨⟨r, hr⟩, hwait⟩ := edge_accepting_pending hrst hvalid hready h
  have hrun := clockRun_of_waiting (lat := lat) hps hr ((edge_rstPrev h).trans hrst) (by omega)
  have hzero : t.rspWait - ps.length = 0 ↔ ps.length = lat - 1 := by omega
  refine ⟨_, hrun, ⟨rfl, rfl, rfl, rfl⟩, rfl, ?_, rfl, ?_⟩
  · simp [withHandshake, hr]
  · simp only [State.validResponse, withHandshake, hzero]

/-- Settles O37: with a response pending no command is accepted, so the edge is an idle one and hands over or holds the
response; an accepting edge takes none. -/
theorem validResponseTakenOnce : Obligations.ValidResponseTakenOnce := by
  intro lat p s t hrst h
  have hidle {r : Response} (hv : s.validResponse = some r) : t = s.idleEdge p.rspReady := by
    obtain ⟨-, hr⟩ := validResponse_eq_some_iff.mp hv
    rw [edge_of_pending hrst hr] at h
    cases h
    rfl
  refine ⟨fun r hv hready => ?_, fun r hv hready => ?_, fun hnone => ?_⟩
  · rw [hidle hv, hready, idleEdge_of_valid_ready hv]
    exact ⟨rfl, rfl, portsOut_rspValid_of_pending_none rfl false, rfl, rfl, rfl, rfl⟩
  · rw [hidle hv, hready, idleEdge_of_valid_not_ready hv]
    exact ⟨rfl, hv, rfl, rfl, rfl, rfl⟩
  · obtain ⟨hreset, -⟩ | ⟨-, -, -, w, u, -, hu, rfl⟩ | ⟨-, -, rfl⟩ := edge_cases h
    · simp [hrst] at hreset
    · obtain ⟨-, -, -, htaken⟩ := perform_surroundings hu
      exact htaken.symm
    · exact idleEdge_taken_of_not_valid hnone p.rspReady

/-! ### O51: the assembler -/

section Assembler

variable {line : AsmLine} {lines body rest : List AsmLine} {outer base : List (Nat × List CmdWord)}
  {out before ws : List CmdWord} {n : Nat}

/-! What each kind of line does to the expansion. -/

theorem expandLines_of_not_wf (h : ¬line.wf) : expandLines (line :: lines) outer out = .error .valueOutOfRange := by
  cases outer <;> simp [expandLines, h]

theorem expandLines_rep : expandLines (.rep n :: lines) outer out = expandLines lines ((n, out) :: outer) [] := by
  simp [expandLines, AsmLine.wf]

theorem expandLines_endr :
    expandLines (.endr :: lines) ((n, before) :: outer) out = expandLines lines outer (before ++ copies n out) := by
  simp [expandLines, AsmLine.wf]

theorem expandLines_endr_unopened : expandLines (.endr :: lines) [] out = .error .endrWithoutRep := by
  simp [expandLines, AsmLine.wf]

/-- A well-formed line other than a `.rep` or `.endr` emits its words. -/
theorem expandLines_emit (hwf : line.wf) (hrep : ∀ n, line ≠ .rep n) (hendr : line ≠ .endr) :
    expandLines (line :: lines) outer out = expandLines lines outer (out ++ wordsOfLine line) := by
  simp [expandLines, hwf, hendr]

theorem assembleLines_singleton (hwf : line.wf) (hrep : ∀ n, line ≠ .rep n) (hendr : line ≠ .endr) :
    assembleLines [line] = .ok (wordsOfLine line) := by
  rw [assembleLines, expandLines_emit hwf hrep hendr]
  rfl

/-- Lines that assemble on their own close every `.rep` they open and no other, so before other lines and inside other
open `.rep`s they emit the same words. -/
theorem expandLines_append (h : expandLines body outer out = .ok ws) :
    expandLines (body ++ rest) (outer ++ base) out = expandLines rest base ws := by
  induction body generalizing outer out with
  | nil =>
    cases outer <;> cases h
    rfl
  | cons line body ih =>
    rw [List.cons_append]
    by_cases hwf : line.wf
    · cases line with
      | rep n =>
        rw [expandLines_rep] at h ⊢
        exact ih h
      | endr =>
        cases outer with
        | nil =>
          rw [expandLines_endr_unopened] at h
          cases h
        | cons frame outer =>
          rw [expandLines_endr] at h
          rw [List.cons_append, expandLines_endr]
          exact ih h
      | blank | load _ | step | release | status | reseed _ | word _ =>
        rw [expandLines_emit hwf nofun nofun] at h ⊢
        exact ih h
    · rw [expandLines_of_not_wf hwf] at h
      cases h

/-- `.rep n` around lines that assemble on their own emits their words `n` times (R55). -/
theorem assembleLines_rep (h : assembleLines body = .ok ws) :
    assembleLines ([.rep n] ++ body ++ [.endr]) = .ok (copies n ws) := by
  rw [assembleLines, List.append_assoc, List.singleton_append, expandLines_rep]
  calc expandLines (body ++ [.endr]) [(n, [])] []
    _ = expandLines [.endr] [(n, [])] ws := expandLines_append h
    _ = .ok (copies n ws) := expandLines_endr

end Assembler

/-- Settles O51, clause by clause: a line in range emits its words, which the decoder reads back; a value out of range is
rejected; and `.rep` repeats its body. -/
theorem assemblerEmits : Obligations.AssemblerEmits := by
  refine ⟨fun v hv => ⟨?_, ?_⟩, fun v hv => ⟨?_, ?_⟩, fun w => ?_, fun n body ws => assembleLines_rep⟩
  · exact ⟨_, assembleLines_singleton (by simpa [AsmLine.wf] using hv) nofun nofun, decode_encode _⟩
  · exact ⟨_, _, assembleLines_singleton (by simpa [AsmLine.wf] using hv) nofun nofun, decode_encode _, decode_encode _⟩
  · exact expandLines_of_not_wf (by simpa [AsmLine.wf] using hv)
  · exact expandLines_of_not_wf (by simpa [AsmLine.wf] using hv)
  · have hwf : (AsmLine.word w.toNat).wf := by simpa [AsmLine.wf] using w.isLt
    have hword : wordsOfLine (.word w.toNat) = [w] := by simp [wordsOfLine]
    rw [assembleLines_singleton hwf nofun nofun, hword]

end Sys2Proof.Proofs

namespace Sys2Proof.Proofs

open Sys2Proof Sys2Proof.Machine Sys2Proof.Laws

/-! ### Step as the representative in `[1, M]` of `A·s` modulo M

`lcgStep_mod` with `lcgStep_range` determines Step, and `lcgStep_eq_of_mod` says so. Only the statements about `test`
itself and its operands (O4, O5, O6) go back to the factoring. -/

section Residues

variable {s t : Word}

/-- Schrage's factoring: A·Q + R = M, so `test` is `A·s` less a multiple of M (R58). -/
theorem stepTest_eq_sub (s : Word) : stepTest s = 16807 * (s.toNat : Int) - 2147483647 * (stepHi s : Int) := by
  obtain ⟨hs, -, -⟩ := stepHi_stepLo s
  have htest := stepTest_eq s
  omega

theorem lcgStep_mod (s : Word) : (lcgStep s).toNat % 2147483647 = 16807 * s.toNat % 2147483647 := by
  have hvalue := lcgStep_eq s
  rw [stepTest_eq_sub] at hvalue
  split at hvalue <;> omega

/-- Step's value is the only one in `[1, M]` of its residue. -/
theorem lcgStep_eq_of_mod (hrange : 1 ≤ t.toNat ∧ t.toNat ≤ 2147483647)
    (hmod : t.toNat % 2147483647 = 16807 * s.toNat % 2147483647) : lcgStep s = t := by
  have hs := lcgStep_range s
  have hsmod := lcgStep_mod s
  apply BitVec.eq_of_toNat_eq
  omega

/-- A is prime to M. -/
theorem mul_mod_eq_zero_iff (n : Nat) : 16807 * n % 2147483647 = 0 ↔ n % 2147483647 = 0 := by
  omega

/-- 1407677000 inverts A modulo M (R64). -/
theorem mul_inverse_mod (n : Nat) : 16807 * (1407677000 * n % 2147483647) % 2147483647 = n % 2147483647 := by
  omega

/-- The 32-bit states of residue 0 (R61). -/
theorem mod_eq_zero_iff (s : Word) :
    s.toNat % 2147483647 = 0 ↔ s = 0#32 ∨ s = 2147483647#32 ∨ s = 4294967294#32 := by
  simp only [BitVec.toNat_eq, BitVec.toNat_ofNat]
  omega

/-- M is where Step is not the residue itself (R62, R63). -/
theorem lcgStep_eq_modulus_iff (s : Word) : lcgStep s = 2147483647#32 ↔ s.toNat % 2147483647 = 0 := by
  have hrange := lcgStep_range s
  have hmod := lcgStep_mod s
  simp only [BitVec.toNat_eq, BitVec.toNat_ofNat]
  omega

theorem lcgStep_toNat_of_mod_ne_zero (h : s.toNat % 2147483647 ≠ 0) :
    (lcgStep s).toNat = 16807 * s.toNat % 2147483647 := by
  have hrange := lcgStep_range s
  have hmod := lcgStep_mod s
  have hne := mt (mul_mod_eq_zero_iff s.toNat).mp h
  omega

theorem lcgStep_ne_double_modulus (s : Word) : lcgStep s ≠ 4294967294#32 := by
  intro h
  have hrange := (lcgStep_range s).2
  simp [h] at hrange

end Residues

/-! ### O4 to O8, O10, O13: Step's value -/

/-- Settles O4: quotient and remainder by Q are unique, so `hi` and `lo` are Step's own. -/
theorem stepFollowsFactoring : Obligations.StepFollowsFactoring := by
  intro s hi lo hs hlo
  obtain ⟨hs', hlo', -⟩ := stepHi_stepLo s
  have hhi : stepHi s = hi := by omega
  have hvalue := lcgStep_eq s
  rw [stepTest_eq] at hvalue
  constructor <;> intro hsign <;> split at hvalue <;> omega

/-- Settles O5: `test` is extreme only where `lo` and `hi` both are, which fixes the state. -/
theorem intermediatesFitThirtyTwoBits : Obligations.IntermediatesFitThirtyTwoBits := by
  intro s
  obtain ⟨hs, hlo, hhi⟩ := stepHi_stepLo s
  have htest := stepTest_eq s
  simp only [BitVec.toNat_eq, BitVec.toNat_ofNat, Config.A, Config.M, Config.R]
  omega

/-- Settles O6: the range of `lo` and `hi` leaves 0 as the only value of `test` that M divides. -/
theorem zeroTestReturnsModulus : Obligations.ZeroTestReturnsModulus := by
  intro s
  have hzero : stepTest s = 0 ↔ s.toNat % 2147483647 = 0 := by
    obtain ⟨hs, hlo, hhi⟩ := stepHi_stepLo s
    have htest := stepTest_eq s
    omega
  exact ⟨hzero, hzero.trans (mod_eq_zero_iff s), fun h => (lcgStep_eq_modulus_iff s).mpr (hzero.mp h)⟩

/-- Settles O7, by A being prime to M. -/
theorem stepClosedForm : Obligations.StepClosedForm := by
  intro s
  have hzero := mul_mod_eq_zero_iff s.toNat
  exact ⟨fun h => lcgStep_toNat_of_mod_ne_zero (mt hzero.mpr h),
    fun h => (lcgStep_eq_modulus_iff s).mpr (hzero.mp h), hzero⟩

/-- R63: off the multiples of M, Step stays off them. -/
theorem lcgStep_range_of_mod_ne_zero {s : Word} (h : s.toNat % 2147483647 ≠ 0) :
    1 ≤ (lcgStep s).toNat ∧ (lcgStep s).toNat ≤ 2147483646 := by
  have hrange := lcgStep_range s
  have hvalue := lcgStep_toNat_of_mod_ne_zero h
  omega

/-- Settles O8. -/
theorem stepOutputRange : Obligations.StepOutputRange := fun s =>
  ⟨lcgStep_range_of_mod_ne_zero, (lcgStep_eq_modulus_iff s).mpr, lcgStep_ne_zero s⟩

theorem lcgStep_eq_of_mod_eq {s t : Word} (h : s.toNat % 2147483647 = t.toNat % 2147483647) :
    lcgStep s = lcgStep t := by
  have hmod := lcgStep_mod t
  exact lcgStep_eq_of_mod (lcgStep_range t) (by omega)

/-- Settles O10: Step is determined by the residue of `A·s`, so by that of `s`. -/
theorem stepDependsOnResidueOnly : Obligations.StepDependsOnResidueOnly := by
  refine ⟨fun s => lcgStep_eq_of_mod_eq ?_, fun s t => lcgStep_eq_of_mod_eq, by decide⟩
  rw [BitVec.toNat_ofNat]
  omega

theorem fpRef_eq_lcgStep {s : Word} (h : s.toNat % 2147483647 ≠ 0) : fpRef s.toNat = (lcgStep s).toNat :=
  (lcgStep_toNat_of_mod_ne_zero h).symm

/-- Settles O13: FpRef is the residue in `[0, M − 1]`, Step the one in `[1, M]`. -/
theorem fpRefDiffersAtMultiplesOfModulus : Obligations.FpRefDiffersAtMultiplesOfModulus := by
  intro s
  rw [← mod_eq_zero_iff]
  have hzero (h : s.toNat % 2147483647 = 0) : fpRef s.toNat = 0 ∧ lcgStep s = 2147483647#32 :=
    ⟨(mul_mod_eq_zero_iff s.toNat).mpr h, (lcgStep_eq_modulus_iff s).mpr h⟩
  refine ⟨⟨fun heq h => ?_, fpRef_eq_lcgStep⟩, hzero⟩
  obtain ⟨href, hstep⟩ := hzero h
  simp [href, hstep] at heq

/-! ### O14: Carta's fold -/

/-- The sum Carta's form folds (G2): of `A·s`, split at bit 31, the low part plus the high part. -/
def cartaSum (s : Word) : Nat :=
  16807 * (s.toNat % 65536) + 16807 * (s.toNat / 65536) % 32768 * 65536 + 16807 * (s.toNat / 65536) / 32768

/-- 2³¹ is 1 modulo M, so the part above bit 31 may be added at bit 0. -/
theorem cartaSum_mod (s : Word) : cartaSum s % 2147483647 = 16807 * s.toNat % 2147483647 := by
  unfold cartaSum
  omega

theorem cartaSum_range {s : Word} (h : s ≠ 0#32) : 1 ≤ cartaSum s ∧ cartaSum s < 2 * 2147483647 := by
  have hpos : s.toNat ≠ 0 := fun h0 => h (BitVec.eq_of_toNat_eq h0)
  have hlt := s.isLt
  unfold cartaSum
  omega

/-- The sum in 32-bit words. -/
def cartaSumWord (s : Word) : Word :=
  16807#32 * (s &&& 0xFFFF#32) + (((16807#32 * (s >>> 16)) &&& 0x7FFF#32) <<< 16) + ((16807#32 * (s >>> 16)) >>> 15)

/-- No operation of the sum wraps. -/
theorem cartaSumWord_toNat (s : Word) : (cartaSumWord s).toNat = cartaSum s := by
  have hlow (n : Nat) : n &&& 65535 = n % 65536 := Nat.and_two_pow_sub_one_eq_mod n 16
  have hmid (n : Nat) : n &&& 32767 = n % 32768 := Nat.and_two_pow_sub_one_eq_mod n 15
  have hlt := s.isLt
  simp only [cartaSumWord, cartaSum, BitVec.toNat_add, BitVec.toNat_mul, BitVec.toNat_and, BitVec.toNat_ofNat,
    BitVec.toNat_ushiftRight, BitVec.toNat_shiftLeft, Nat.shiftLeft_eq, Nat.shiftRight_eq_div_pow, Nat.reduceMod,
    Nat.reducePow, hlow, hmid]
  simp (disch := omega) only [Nat.mod_eq_of_lt]

theorem cartaFold_eq (s : Word) :
    cartaFold s = if (cartaSumWord s).toNat > 2147483647 then cartaSumWord s - 2147483647#32 else cartaSumWord s :=
  rfl

theorem cartaFold_toNat (s : Word) :
    (cartaFold s).toNat = if cartaSum s > 2147483647 then cartaSum s - 2147483647 else cartaSum s := by
  rw [cartaFold_eq, cartaSumWord_toNat]
  split
  case isTrue hfold =>
    have hle : 2147483647#32 ≤ cartaSumWord s := by
      rw [BitVec.le_def, cartaSumWord_toNat]
      exact hfold.le
    rw [BitVec.toNat_sub_of_le hle, cartaSumWord_toNat]
    rfl
  case isFalse => exact cartaSumWord_toNat s

/-- Settles O14: the folded sum has the residue of `A·s` and lies in `[1, M]`, so it is Step's value. -/
theorem cartaFoldIsConforming : Obligations.CartaFoldIsConforming := by
  refine ⟨by decide, fun s hs => (lcgStep_eq_of_mod ?_ ?_).symm⟩
  all_goals
    have hvalue := cartaFold_toNat s
    have hrange := cartaSum_range hs
    have hmod := cartaSum_mod s
    split at hvalue <;> omega

/-! ### O9, O11, O12: iterating Step -/

section Cycle

variable {s t : Word}

/-- The states of the cycle, `[1, M − 1]` (R64). -/
abbrev InCycle (s : Word) : Prop :=
  1 ≤ s.toNat ∧ s.toNat ≤ 2147483646

theorem InCycle.mod_ne_zero (h : InCycle s) : s.toNat % 2147483647 ≠ 0 := by
  omega

theorem InCycle.iterate (h : InCycle s) (k : Nat) : InCycle (lcgStep^[k] s) := by
  induction k with
  | zero => exact h
  | succ k ih =>
    rw [Function.iterate_succ_apply']
    exact lcgStep_range_of_mod_ne_zero ih.mod_ne_zero

/-- A state modulo M. -/
def residue (s : Word) : ZMod 2147483647 :=
  s.toNat

theorem residue_lcgStep (s : Word) : residue (lcgStep s) = 16807 * residue s := by
  have hmod := (ZMod.natCast_eq_natCast_iff' _ _ _).mpr (lcgStep_mod s)
  rwa [Nat.cast_mul] at hmod

theorem residue_iterate (s : Word) (k : Nat) : residue (lcgStep^[k] s) = 16807 ^ k * residue s := by
  induction k with
  | zero => simp
  | succ k ih => rw [Function.iterate_succ_apply', residue_lcgStep, ih, pow_succ', mul_assoc]

theorem residue_inj (hs : InCycle s) (ht : InCycle t) : residue s = residue t ↔ s = t := by
  rw [residue, residue, ZMod.natCast_eq_natCast_iff', BitVec.toNat_eq]
  omega

theorem InCycle.residue_ne_zero (h : InCycle s) : residue s ≠ 0 := by
  rw [residue, Ne, ZMod.natCast_eq_zero_iff, Nat.dvd_iff_mod_eq_zero]
  exact h.mod_ne_zero

/-- The primes dividing M − 1, by its factorisation. -/
theorem prime_dvd_period {q : Nat} (hq : q.Prime) (h : q ∣ 2147483646) : q ∈ [2, 3, 3, 7, 11, 31, 151, 331] := by
  refine mem_list_primes_of_dvd_prod hq.prime (fun p hp => Nat.Prime.prime ?_) h
  fin_cases hp <;> norm_num

/-- Fermat's equation for A, by repeated squaring. -/
theorem multiplier_pow_period : (16807 : ZMod 2147483647) ^ 2147483646 = 1 := by
  reduce_mod_char

/-- Lucas's condition: the order of A divides no maximal proper divisor of M − 1. -/
theorem multiplier_pow_ne_one {q : Nat} (hq : q.Prime) (h : q ∣ 2147483646) :
    (16807 : ZMod 2147483647) ^ (2147483646 / q) ≠ 1 := by
  have hmem := prime_dvd_period hq h
  fin_cases hmem <;> simp only [Nat.reduceDiv] <;> reduce_mod_char <;> decide

/-- M is prime, by Lucas's test with the witness A. -/
theorem modulus_prime : Nat.Prime 2147483647 :=
  lucas_primality _ 16807 multiplier_pow_period fun _ => multiplier_pow_ne_one

/-- A is a primitive root modulo M. -/
theorem multiplier_isPrimitiveRoot : IsPrimitiveRoot (16807 : ZMod 2147483647) 2147483646 :=
  IsPrimitiveRoot.iff_orderOf.mpr <|
    orderOf_eq_of_pow_and_pow_div_prime (by norm_num) multiplier_pow_period fun _ => multiplier_pow_ne_one

/-- R64: the period of every state of the cycle. -/
theorem iterate_eq_self_iff (hs : InCycle s) (k : Nat) : lcgStep^[k] s = s ↔ 2147483646 ∣ k := by
  have : Fact (Nat.Prime 2147483647) := ⟨modulus_prime⟩
  rw [← residue_inj (hs.iterate k) hs, residue_iterate, mul_eq_right₀ hs.residue_ne_zero,
    multiplier_isPrimitiveRoot.pow_eq_one_iff_dvd]

/-- By Fermat the residue of a state is a root of unity of order dividing M − 1, so a power of A. -/
theorem reached_from_one (hs : InCycle s) : ∃ k < 2147483646, lcgStep^[k] 1#32 = s := by
  have : Fact (Nat.Prime 2147483647) := ⟨modulus_prime⟩
  have hone : InCycle 1#32 := by decide
  obtain ⟨k, hk, hpow⟩ :=
    multiplier_isPrimitiveRoot.eq_pow_of_pow_eq_one (ZMod.pow_card_sub_one_eq_one hs.residue_ne_zero)
  refine ⟨k, hk, (residue_inj (hone.iterate k) hs).mp ?_⟩
  rw [residue_iterate, hpow]
  simp [residue]

end Cycle

/-- Settles O12: Step stays in `[1, M − 1]`, where it is FpRef. -/
theorem stepIteratesLikeFpRef : Obligations.StepIteratesLikeFpRef := by
  intro s k h1 hM
  induction k with
  | zero => rfl
  | succ k ih =>
    have hcycle : InCycle (lcgStep^[k] s) := InCycle.iterate ⟨h1, hM⟩ k
    rw [Function.iterate_succ_apply', Function.iterate_succ_apply', ← ih, fpRef_eq_lcgStep hcycle.mod_ne_zero]

/-- Settles O9: 1407677000 inverts A modulo M, and A is a primitive root modulo the prime M, so Step's one cycle on
`[1, M − 1]` is the powers of A. -/
theorem stepIsOneFullCycle : Obligations.StepIsOneFullCycle := by
  refine ⟨by decide, fun s h1 hM => ?_⟩
  have hs : InCycle s := ⟨h1, hM⟩
  have hmod := lcgStep_mod s
  refine ⟨lcgStep_range_of_mod_ne_zero hs.mod_ne_zero, by omega, lcgStep_eq_of_mod (by omega) ?_,
    iterate_eq_self_iff hs, reached_from_one hs⟩
  have hlt : 1407677000 * s.toNat % 2147483647 < 2 ^ 32 := by omega
  rw [BitVec.toNat_ofNat, Nat.mod_eq_of_lt hlt, mul_inverse_mod]

/-- A command leaves a live unit with a seed it loaded, a value of Step, or the S of before. -/
theorem exec_live_S {i : Instr} {s t : State} (h : exec i s = .next t) (hlive : t.LIVE = true) :
    (∃ seed, i = .load seed ∧ t.S = coerceSeed seed) ∨ (s.LIVE = true ∧ (t.S = lcgStep s.S ∨ t.S = s.S)) := by
  obtain ⟨-, rfl⟩ | ⟨-, -, rfl⟩ | ⟨-, ⟨seed, rfl, -, rfl⟩ | ⟨-, -, -, rfl⟩ | ⟨-, hl, rfl⟩ | ⟨-, -, rfl⟩ | ⟨-, -, rfl⟩ |
    ⟨-, -, rfl⟩⟩ := exec_cases h
  · exact .inr ⟨hlive, .inr rfl⟩ -- STATUS
  · exact .inr ⟨hlive, .inr rfl⟩ -- refused while halted
  · exact .inl ⟨seed, rfl, rfl⟩ -- LOAD creates
  · exact .inr ⟨hlive, .inr rfl⟩ -- LOAD faults
  · exact .inr ⟨hl, .inl rfl⟩ -- STEP advances
  · exact .inr ⟨hlive, .inr rfl⟩ -- STEP faults
  · cases hlive -- RELEASE destroys
  · exact .inr ⟨hlive, .inr rfl⟩ -- RELEASE faults

/-- The coercion of a seed is visible only as 1 (R73). -/
theorem coerceSeed_of_ne_one {seed : Word} (h : coerceSeed seed ≠ 1#32) : coerceSeed seed = seed :=
  coerceSeed_of_ne_zero fun hzero => h (if_pos hzero)

/-- Settles O11: Step gives M only at a multiple of M and never gives 2M, and a live S changes by LOAD and STEP only. -/
theorem modulusIsFixedPoint : Obligations.ModulusIsFixedPoint := by
  have hM : lcgStep 2147483647#32 = 2147483647#32 := by decide
  have h2M : lcgStep 4294967294#32 = 2147483647#32 := by decide
  refine ⟨fun k => ?_, fun s k h1 hlast => ?_, fun i s t hnz h hlive ht => ?_⟩
  · rw [Function.iterate_succ_apply, h2M]
    exact ⟨Function.iterate_fixed hM k, Function.iterate_fixed hM k⟩
  · have hcycle : InCycle (lcgStep^[k] s) := InCycle.iterate ⟨h1, hlast⟩ k
    constructor <;> intro h <;> simp [h, InCycle] at hcycle
  · obtain ⟨seed, rfl, hS⟩ | ⟨hl, hS | hS⟩ := exec_live_S h hlive
    · rw [hS] at ht ⊢
      have hne : coerceSeed seed ≠ 1#32 := by
        intro hone
        simp [hone] at ht
      exact .inl (by rw [coerceSeed_of_ne_one hne])
    · rw [hS, or_iff_left (lcgStep_ne_double_modulus s.S), lcgStep_eq_modulus_iff, mod_eq_zero_iff] at ht
      exact .inr ⟨hl, ht.resolve_left (hnz hl)⟩
    · exact .inr ⟨hl, hS ▸ ht⟩

end Sys2Proof.Proofs

namespace Sys2Proof.Proofs

open Sys2Proof Sys2Proof.Machine Sys2Proof.Laws

/-! ### O16 to O19: a command that is performed -/

section Performed

variable {s : State}

/-- A LOAD that creates the generator (R72, R73). -/
theorem exec_load_of_not_live (seed : Word) (hf : s.FAULT = false) (hl : s.LIVE = false) :
    exec (.load seed) s = .next (State.respond { s with S := coerceSeed seed, LIVE := true } .ok 0#32) := by
  simp [exec, execLoad, unlessHalted_of_running hf, hl]

/-- A RELEASE that destroys the generator (R77). -/
theorem exec_release_of_live (hf : s.FAULT = false) (hl : s.LIVE = true) :
    exec .release s = .next (State.respond (State.forgetS { s with LIVE := false }) .ok 0#32) := by
  simp [exec, execRelease, unlessHalted_of_running hf, hl]

/-- STATUS is served in every state (R78, R80). -/
theorem exec_status (s : State) : exec .status s = .next (s.respond .ok s.statusWord) := rfl

end Performed

/-- Settles O16: the stored seed is the coerced one. -/
theorem loadCreatesGenerator : Obligations.LoadCreatesGenerator :=
  fun seed _ => exec_load_of_not_live seed

/-- Settles O17: the response carries the S the command leaves. -/
theorem stepAdvancesGenerator : Obligations.StepAdvancesGenerator :=
  fun _ => exec_step_of_live

/-- Settles O18: S takes the next free value. -/
theorem releaseDestroysGenerator : Obligations.ReleaseDestroysGenerator :=
  fun _ hf hl => ⟨_, _, exec_release_of_live hf hl⟩

/-- Settles O19: STATUS makes no halted check and no LIVE check. -/
theorem statusReadsStatusWord : Obligations.StatusReadsStatusWord :=
  exec_status

/-! ### O22: the ILLEGAL words -/

section Illegal

variable {w : CmdWord} {s : State}

theorem withoutOperand_illegal_iff (i : Instr) (op : BitVec 4) (d : Word) :
    (∃ why, withoutOperand i op d = .illegal why) ↔ d ≠ 0#32 := by
  unfold withoutOperand
  split <;> simp [*]

/-- Which fields are ILLEGAL: a reserved opcode (R47), or a reserved operand of an assigned one (R48). -/
theorem decodeFields_illegal_iff (c : Command) :
    (∃ why, decodeFields c = .illegal why) ↔
      (c.op = 0x0#4 ∨ 0x5#4 ≤ c.op) ∨ ((c.op = 0x2#4 ∨ c.op = 0x3#4 ∨ c.op = 0x4#4) ∧ c.data ≠ 0#32) := by
  unfold decodeFields
  split_ifs with hload hstep hrelease hstatus
  · simp [hload]
  · simp [withoutOperand_illegal_iff, hstep]
  · simp [withoutOperand_illegal_iff, hrelease]
  · simp [withoutOperand_illegal_iff, hstatus]
  · have hreserved : c.op = 0x0#4 ∨ 0x5#4 ≤ c.op := by bv_omega
    simp [hreserved]

theorem perform_of_illegal {why : Reject} (h : decode w = .illegal why) (s : State) :
    perform w s = .next (s.unlessHalted (s.raiseFault .illegalCmd)) := by
  rw [perform, h]
  rfl

end Illegal

/-- Settles O22: the words by their fields, and their effect by the halted check. -/
theorem reservedWordsAreIllegal : Obligations.ReservedWordsAreIllegal := by
  intro w s
  refine ⟨decodeFields_illegal_iff (fieldsOf w), ?_, ?_⟩
  · rintro ⟨why, hw⟩ hf
    rw [perform_of_illegal hw, unlessHalted_of_running hf]
    rfl
  · rintro ⟨why, hw⟩ hf
    rw [perform_of_illegal hw, unlessHalted_of_halted hf]
    rfl

/-! ### O23: a halted unit -/

section Halted

variable {lat : Nat} {p : PortsIn} {w : CmdWord} {i : Instr} {s t : State}

/-- Every command but STATUS makes the halted check first (R71). -/
theorem exec_of_halted (hf : s.FAULT = true) (hi : i ≠ .status) : exec i s = .next (s.respond .halted 0#32) := by
  cases i with
  | load _ | step | release => exact congrArg Host.Outcome.next (unlessHalted_of_halted hf)
  | status => exact absurd rfl hi

theorem perform_of_halted (hf : s.FAULT = true) (hw : w ≠ encode .status) :
    perform w s = .next (s.respond .halted 0#32) := by
  cases hdecode : decode w with
  | command i =>
    obtain rfl := decode_eq_command_iff.mp hdecode
    rw [perform_encode]
    exact exec_of_halted hf fun hi => hw (congrArg encode hi)
  | illegal why => rw [perform_of_illegal hdecode, unlessHalted_of_halted hf]

/-- Served or refused, a word performed by a halted unit leaves only a response (R80). -/
theorem perform_sameRegisters_of_halted (hf : s.FAULT = true) (h : perform w s = .next t) : SameRegisters t s := by
  by_cases hw : w = encode .status
  · rw [hw, perform_encode, exec_status] at h
    cases h
    exact ⟨rfl, rfl, rfl, rfl⟩
  · rw [perform_of_halted hf hw] at h
    cases h
    exact ⟨rfl, rfl, rfl, rfl⟩

/-- Without reset, an edge performs a word or moves the handshake, and neither writes a halted unit's registers. -/
theorem edge_sameRegisters_of_halted (hf : s.FAULT = true) (hr : p.rst = false) (h : edge lat p s = .next t) :
    SameRegisters t s := by
  refine edge_induction (P := fun t => SameRegisters t s) ?_ ?_ ?_ h
  · exact fun hreset => by simp [hr] at hreset
  · exact fun w u _ _ _ hu => perform_sameRegisters_of_halted (t := u) hf hu
  · intro _
    obtain ⟨hregisters, -⟩ := idleEdge_registers s p.rspReady
    exact hregisters

end Halted

/-- Settles O23: the one word served is `encode .status`, and only a reset edge writes a halted unit's registers. -/
theorem haltedUntilReset : Obligations.HaltedUntilReset := by
  refine ⟨fun w s hf => ⟨?_, perform_of_halted hf⟩, fun lat p s t hf h => ⟨fun hr => ?_, fun hr => ?_⟩⟩
  · rintro rfl
    exact perform_encode .status s
  · exact edge_sameRegisters_of_halted hf hr h
  · rw [edge_of_reset hr] at h
    cases h
    exact ⟨rfl, rfl⟩

/-! ### O45: runs of commands from two states that are the same but for a hidden S -/

section SameRuns

variable {s t : State}

theorem transact_sameButHiddenS (w : CmdWord) (h : SameButHiddenS s t) :
    ∃ s' t', transact w s = .next s' ∧ transact w t = .next t' ∧ SameButHiddenS s' t' := by
  obtain ⟨u, hu⟩ := perform_next w s
  obtain ⟨v, hv⟩ := perform_next w t
  have huv := perform_sameOutcome w h
  rw [hu, hv] at huv
  exact ⟨_, _, transact_of_perform hu, transact_of_perform hv, sameButHiddenS_takeResponse huv⟩

theorem transactAll_sameButHiddenS (ws : List CmdWord) (h : SameButHiddenS s t) :
    ∃ s' t', transactAll ws s = .next s' ∧ transactAll ws t = .next t' ∧ SameButHiddenS s' t' := by
  induction ws generalizing s t with
  | nil => exact ⟨s, t, rfl, rfl, h⟩
  | cons w ws ih =>
    obtain ⟨u, v, hu, hv, huv⟩ := transact_sameButHiddenS w h
    rw [transactAll_cons hu, transactAll_cons hv]
    exact ih huv

end SameRuns

/-- Settles O45: each command keeps the two states the same but for a hidden S, so they end with one observation. -/
theorem equalCommandsEqualResponses : Obligations.EqualCommandsEqualResponses := by
  intro ws s t h
  obtain ⟨s', t', hs, ht, hobs, -⟩ := transactAll_sameButHiddenS ws h
  exact ⟨s', t', hs, ht, hobs⟩

/-! ### O48: the sequence after a LOAD -/

section Sequence

variable {i : Instr} {is : List Instr} {w : CmdWord} {ws : List CmdWord} {s t : State} {n : Nat} {r : Response}

theorem transact_encode (h : exec i s = .next t) : transact (encode i) s = .next t.takeResponse :=
  transact_of_perform ((perform_encode i s).trans h)

/-- A command adds to the responses taken and changes none of them (R111). -/
theorem transact_keeps_taken (hr : s.taken[n]? = some r) (h : transact w s = .next t) : t.taken[n]? = some r := by
  obtain ⟨u, hu, rfl⟩ := transact_cases h
  obtain ⟨-, -, -, htaken⟩ := perform_surroundings hu
  obtain ⟨hn, -⟩ := List.getElem?_eq_some_iff.mp hr
  rw [takeResponse_taken, ← htaken, List.getElem?_append_left hn, hr]

theorem transactAll_keeps_taken (hr : s.taken[n]? = some r) (h : transactAll ws s = .next t) :
    t.taken[n]? = some r :=
  transactAll_keeps (P := fun t => t.taken[n]? = some r) transact_keeps_taken hr h

/-- A unit that has a generator and is not halted (R75). -/
def Running (s : State) : Prop :=
  s.FAULT = false ∧ s.LIVE = true

theorem transact_load_of_not_live (seed : Word) (hf : s.FAULT = false) (hl : s.LIVE = false) :
    ∃ u, transact (encode (.load seed)) s = .next u ∧ Running u ∧ u.S = coerceSeed seed :=
  ⟨_, transact_encode (exec_load_of_not_live seed hf hl), ⟨hf, rfl⟩, rfl⟩

/-- On a running unit STEP advances S and returns it, and STATUS leaves S (R75, R78). -/
theorem transact_of_running (hs : Running s) (hi : i = .step ∨ i = .status) :
    ∃ u, transact (encode i) s = .next u ∧ Running u ∧ u.S = lcgStep^[if i == .step then 1 else 0] s.S ∧
      (i = .step → u.taken[s.taken.length]? = some ⟨.ok, u.S⟩) := by
  obtain ⟨hf, hl⟩ := id hs
  obtain rfl | rfl := hi
  · exact ⟨_, transact_encode (exec_step_of_live hf hl), hs, rfl, fun _ => List.getElem?_concat_length⟩
  · exact ⟨_, transact_encode (exec_status s), hs, rfl, nofun⟩

/-- R76 from any running unit: the response to each STEP is Step iterated as often as there have been STEPs. -/
theorem transactAll_of_running (hs : Running s) (his : ∀ i ∈ is, i = .step ∨ i = .status) :
    ∃ t, transactAll (is.map encode) s = .next t ∧ ∀ n, is[n]? = some .step →
      t.taken[s.taken.length + n]? = some ⟨.ok, lcgStep^[(is.take (n + 1)).count .step] s.S⟩ := by
  induction is generalizing s with
  | nil => exact ⟨s, rfl, nofun⟩
  | cons i is ih =>
    obtain ⟨hi, his⟩ := List.forall_mem_cons.mp his
    obtain ⟨u, hu, hrunning, hS, hresponse⟩ := transact_of_running hs hi
    obtain ⟨t, ht, hrest⟩ := ih hrunning his
    refine ⟨t, (transactAll_cons hu).trans ht, fun n hn => ?_⟩
    rw [List.take_succ_cons, List.count_cons, Function.iterate_add_apply, ← hS]
    cases n with
    | zero => exact transactAll_keeps_taken (hresponse (Option.some.inj hn)) ht
    | succ n =>
      have hlen := transact_taken_length hu
      rw [← hrest n hn, hlen]
      congr 1
      omega

end Sequence

/-- Settles O48: LOAD answers first and leaves a running unit with the coerced seed in S. -/
theorem sequenceAfterLoad : Obligations.SequenceAfterLoad := by
  intro seed is s hf hl his
  obtain ⟨u, hu, hrunning, hS⟩ := transact_load_of_not_live seed hf hl
  obtain ⟨t, ht, hsteps⟩ := transactAll_of_running hrunning his
  rw [hS, transact_taken_length hu] at hsteps
  exact ⟨t, (transactAll_cons hu).trans ht, hsteps⟩

/-! ### O15: the source's checkpoint -/

/-- Settles O15: modulo M the iterate is the power of A, and both sides lie in `[1, M − 1]`. -/
theorem tenThousandthOutput : Obligations.TenThousandthOutput := by
  have hone : InCycle 1#32 := by decide
  have hpow : (16807 : ZMod 2147483647) ^ 10000 = 1043618065 := by reduce_mod_char
  refine (residue_inj (hone.iterate 10000) (by decide)).mp ?_
  rw [residue_iterate, hpow]
  simp [residue]

end Sys2Proof.Proofs

namespace Sys2Proof.Proofs

open Sys2Proof Sys2Proof.Machine Sys2Proof.Laws

/-! ### O21: the four violations (R86) -/

section Violations

variable {w : CmdWord} {i : Instr} {s t : State}

theorem perform_of_command (h : decode w = .command i) (s : State) : perform w s = exec i s := by
  rw [decode_eq_command_iff.mp h, perform_encode]

theorem exec_step_of_not_live (hf : s.FAULT = false) (hl : s.LIVE = false) :
    exec .step s = .next (s.raiseFault .stepNotLive) := by
  simp [exec, execStep, unlessHalted_of_running hf, hl]

theorem exec_release_of_not_live (hf : s.FAULT = false) (hl : s.LIVE = false) :
    exec .release s = .next (s.raiseFault .releaseNotLive) := by
  simp [exec, execRelease, unlessHalted_of_running hf, hl]

theorem exec_load_of_live (seed : Word) (hf : s.FAULT = false) (hl : s.LIVE = true) :
    exec (.load seed) s = .next (s.raiseFault .loadWhileLive) := by
  simp [exec, execLoad, unlessHalted_of_running hf, hl]

/-- A command that halts a running unit met LIVE at the wrong value (R86); a performed command leaves FAULT as it was. -/
theorem violation_of_exec_faults (hf : s.FAULT = false) (h : exec i s = .next t) (ht : t.FAULT = true) :
    (i = .step ∧ s.LIVE = false) ∨ (i = .release ∧ s.LIVE = false) ∨ ∃ seed, i = .load seed ∧ s.LIVE = true := by
  obtain ⟨-, rfl⟩ | ⟨-, hhalted, -⟩ | ⟨-, ⟨_, -, -, rfl⟩ | ⟨seed, hi, hl, -⟩ | ⟨-, -, rfl⟩ | ⟨hi, hl, -⟩ | ⟨-, -, rfl⟩ |
    ⟨hi, hl, -⟩⟩ := exec_cases h
  · simp [hf] at ht -- STATUS
  · simp [hf] at hhalted -- refused while halted
  · simp [hf] at ht -- LOAD creates
  · exact .inr (.inr ⟨seed, hi, hl⟩)
  · simp [hf] at ht -- STEP advances
  · exact .inl ⟨hi, hl⟩
  · simp [hf] at ht -- RELEASE destroys
  · exact .inr (.inl ⟨hi, hl⟩)

end Violations

/-- Settles O21: each condition leads to its fault action (`raiseFault`), and a word that halts the unit is ILLEGAL or a
command that met a violation (`violation_of_exec_faults`). -/
theorem violationsFaultWithTheirCause : Obligations.ViolationsFaultWithTheirCause := by
  intro w s hf
  obtain ⟨-, hillegal, -⟩ := reservedWordsAreIllegal w s
  refine ⟨fun hw => hillegal hw hf, fun hw hl => ?_, fun hw hl => ?_, fun seed hw hl => ?_, fun t h ht => ?_⟩
  · exact (perform_of_command hw s).trans (exec_step_of_not_live hf hl)
  · exact (perform_of_command hw s).trans (exec_release_of_not_live hf hl)
  · exact (perform_of_command hw s).trans (exec_load_of_live seed hf hl)
  · obtain ⟨i, hw, hexec⟩ | ⟨why, hw, -, -⟩ | ⟨why, hw, -, -⟩ := perform_cases h
    · simpa [hw] using violation_of_exec_faults hf hexec ht
    · exact .inl ⟨why, hw⟩
    · exact .inl ⟨why, hw⟩

end Sys2Proof.Proofs

namespace Sys2Proof.Proofs

open Sys2Proof Sys2Proof.Machine Sys2Proof.Laws

/-! ### O32, O31: reset edges -/

section ResetEdges

variable {lat : Nat} {p : PortsIn} {s t : State}

/-- Resetting twice differs from resetting once in the unspecified S alone (R16, R98). -/
theorem doReset_sameButHiddenS (s : State) : SameButHiddenS s.doReset s.doReset.doReset :=
  ⟨rfl, rfl, rfl, rfl, rfl⟩

theorem idleEdge_pending_of_none (h : s.pending = none) (ready : Bool) : (s.idleEdge ready).pending = none := by
  obtain ⟨-, hidle⟩ | ⟨-, -, hidle⟩ | ⟨-, -, hidle⟩ := idleEdge_cases s ready <;> simp [hidle, h]

/-- With nothing pending, an edge without reset at which no command is accepted leaves the unit ready (R53). -/
theorem edge_cmdReady_of_not_accepting (hrst : p.rst = false) (hp : s.pending = none)
    (hnot : ¬(p.cmdValid = true ∧ s.cmdReady = true)) (h : edge lat p s = .next t) : t.cmdReady = true := by
  obtain ⟨hreset, -⟩ | ⟨-, hvalid, hready, -⟩ | ⟨-, -, rfl⟩ := edge_cases h
  · simp [hrst] at hreset
  · exact absurd ⟨hvalid, hready⟩ hnot
  · exact cmdReady_iff.mpr ⟨idleEdge_pending_of_none hp _, idleEdge_rstPrev s _⟩

end ResetEdges

/-- Settles O32: a reset edge reads `rst` alone and leaves nothing pending and `rstPrev` set, so the next edge accepts no
command and clears `rstPrev`. -/
theorem readyFromSecondCycleAfterReset : Obligations.ReadyFromSecondCycleAfterReset := by
  refine ⟨fun lat p q s hp hq => ?_, fun _ => rfl, fun lat p q s t u hp ht hq hu => ?_,
    fun lat p s t hready hrst hvalid h => ?_⟩
  · rw [edge_of_reset hp, edge_of_reset hq]
  · rw [edge_of_reset hp] at ht
    cases ht
    have hnotReady : s.doReset.cmdReady = false := rfl
    exact ⟨hnotReady, edge_cmdReady_of_not_accepting hq rfl (by simp [hnotReady]) hu⟩
  · obtain ⟨hpending, -⟩ := cmdReady_iff.mp hready
    exact edge_cmdReady_of_not_accepting hrst hpending (by simp [hvalid]) h

/-- Settles O31: both edges are resets, whatever the other ports carry. -/
theorem holdingResetHasNoFurtherEffect : Obligations.HoldingResetHasNoFurtherEffect := by
  intro lat p q s t u hp hq ht hu
  rw [edge_of_reset hp] at ht
  cases ht
  rw [edge_of_reset hq] at hu
  cases hu
  exact doReset_sameButHiddenS s

/-! ### O38, O39, O40: back-pressure and spacing -/

section Outstanding

variable {lat : Nat} {ps qs : List PortsIn} {p : PortsIn} {s t : State} {r : Response}

theorem cmdReady_of_pending (h : s.pending = some r) : s.cmdReady = false := by
  simp [State.cmdReady, h]

theorem clockRun_append (h : clockRun lat ps s = .next t) : clockRun lat (ps ++ qs) s = clockRun lat qs t := by
  induction ps generalizing s with
  | nil =>
    cases h
    rfl
  | cons p ps ih =>
    obtain ⟨u, hedge, hrun⟩ := clockRun_cons_next h
    rw [List.cons_append, clockRun_cons hedge, ih hrun]

/-- An edge at which the host is not ready leaves a valid response as it is (R109). -/
theorem edge_of_stalled (hrst : p.rst = false) (hstall : p.rspReady = false) (hv : s.validResponse = some r) :
    edge lat p s = .next { s with rstPrev := false } := by
  obtain ⟨-, hr⟩ := validResponse_eq_some_iff.mp hv
  rw [edge_of_pending hrst hr, hstall, idleEdge_of_valid_not_ready hv]

/-- An edge at which the host is ready takes a valid response, and the unit is ready again (R54, R105). -/
theorem edge_of_taking (hrst : p.rst = false) (htake : p.rspReady = true) (hv : s.validResponse = some r) :
    edge lat p s =
      .next { s with rstPrev := false, rspWait := 0, pending := none, taken := s.taken ++ [r] } := by
  obtain ⟨-, hr⟩ := validResponse_eq_some_iff.mp hv
  rw [edge_of_pending hrst hr, htake, idleEdge_of_valid_ready hv]

end Outstanding

/-- Settles O38, by induction on the stalled edges: each one changes `rstPrev` at most and, the response being pending,
accepts no command. -/
theorem backPressureLosesNothing : Obligations.BackPressureLosesNothing := by
  intro lat ps s r hps hv
  obtain ⟨-, hr⟩ := validResponse_eq_some_iff.mp hv
  have hnotReady := cmdReady_of_pending hr
  induction ps generalizing s with
  | nil => exact ⟨s, rfl, hv, ⟨rfl, rfl, rfl, rfl⟩, rfl, hnotReady, rfl⟩
  | cons p ps ih =>
    obtain ⟨hrst, hstall⟩ := hps p List.mem_cons_self
    have hedge := edge_of_stalled (lat := lat) hrst hstall hv
    rw [clockRun_cons hedge, acceptedWords_cons_of_not_accepting (by simp [hnotReady]) hedge]
    exact ih { s with rstPrev := false } (fun q hq => hps q (List.mem_cons_of_mem p hq)) hv hr (cmdReady_of_pending hr)

/-- Settles O39: an accepting edge leaves its response pending; with one pending every edge is an idle one, which keeps it
unless it is valid and the host takes it. -/
theorem oneCommandOutstanding : Obligations.OneCommandOutstanding := by
  refine ⟨fun lat p s t hrst hvalid hready h => ?_, fun lat p s t r hr hrst h => ?_⟩
  · obtain ⟨⟨r, hr⟩, -⟩ := edge_accepting_pending hrst hvalid hready h
    exact ⟨by simp [hr], cmdReady_of_pending hr⟩
  · rw [edge_of_pending hrst hr] at h
    cases h
    obtain ⟨-, hidle⟩ | ⟨hwait, htake, hidle⟩ | ⟨-, -, hidle⟩ := idleEdge_cases s p.rspReady <;> rw [hidle]
    · exact .inl ⟨hr, cmdReady_of_pending hr⟩ -- counts down
    · exact .inr ⟨validResponse_eq_some_iff.mpr ⟨hwait, hr⟩, htake, by simp [hr], rfl⟩ -- taken
    · exact .inl ⟨hr, cmdReady_of_pending hr⟩ -- held

/-- Settles O40: up to `lat − 1` further edges the response is still pending (O36), and the edge after them takes it. -/
theorem minimumCommandSpacing : Obligations.MinimumCommandSpacing := by
  intro lat p s t ps hlat hrst hvalid hready h hps hlen
  have hlatency := fun qs => responseLatency lat p s t qs hlat hrst hvalid hready h
  obtain hlt | rfl := Nat.lt_or_eq_of_le hlen
  · obtain ⟨u, hrun, -, -, hsome, -⟩ := hlatency ps (fun q hq => (hps q hq).1) hlt
    obtain ⟨r, hr⟩ := Option.isSome_iff_exists.mp hsome
    exact ⟨u, hrun, by simp [cmdReady_of_pending hr, hlt.ne]⟩
  · obtain rfl | ⟨qs, q, rfl⟩ := ps.eq_nil_or_concat'
    · simp at hlat
    · obtain ⟨u, hrun, -, -, -, -, hv⟩ := hlatency qs (fun x hx => (hps x (by simp [hx])).1) (by simp)
      obtain ⟨⟨r, hr⟩, -⟩ := edge_accepting_pending hrst hvalid hready h
      obtain ⟨hq, htake⟩ := hps q (by simp)
      have hlast := edge_of_taking (lat := (qs ++ [q]).length) hq htake (hv.trans (by simpa using hr))
      exact ⟨_, (clockRun_append hrun).trans (clockRun_cons hlast), iff_of_true rfl rfl⟩

/-! ### O41: the one stop -/

/-- The refusal of an edge, as an equivalence: it accepts a sample that is no definite word (U14). -/
theorem edge_refused_iff {lat : Nat} {p : PortsIn} {s : State} {r : Refusal} :
    edge lat p s = .refused r ↔
      r = .undefinedSample ∧ p.rst = false ∧ p.cmdValid = true ∧ s.cmdReady = true ∧ sampledCommand p = none := by
  constructor
  · intro h
    obtain ⟨hrst, hvalid, hready, hnone, hr⟩ := edge_refused h
    exact ⟨hr, hrst, hvalid, hready, hnone⟩
  · rintro ⟨rfl, hrst, hvalid, hready, hnone⟩
    simp [edge, accept, hrst, hvalid, hready, hnone]

/-- Settles O41: a step is an edge, and using up the host's sample leaves `cmd_ready` as it was. -/
theorem stepStopsOnlyOnIndefiniteSample : Obligations.StepStopsOnlyOnIndefiniteSample := by
  intro s r
  rw [step_eq_edge, edge_refused_iff, cmdReady_iff, dropInput_pending, dropInput_rstPrev, and_assoc]

end Sys2Proof.Proofs
